-- ==== Sys2Proof/Word.lean ====
section
/-! DEFINITION. The word of BIGCORE: the limb of rule R11. -/

namespace Sys2Proof

/-- A limb, and the content of a word register: "an unsigned 64-bit machine word" (R11, R21). -/
abbrev Word := BitVec 64

/-- A command word: the one 32-bit format F (R60). -/
abbrev CmdWord := BitVec 32

/-- A port word address: 16 bits, counting 64-bit words (R41). -/
abbrev Addr := BitVec 16

end Sys2Proof
end

