-- ==== Sys2Proof/Syntax.lean ====
section
/-! DEFINITION. The sixteen commands of BIGCORE (R64), one constructor per row of spec/opcode_table.json. -/

namespace Sys2Proof

/-- A word register number, 0 .. 7 (R21, R62). -/
abbrev WReg := Fin 8

/-- A BigUint register number, 0 .. 7 (R22, R62). -/
abbrev BReg := Fin 8

/-- The carry-in select of ADCW and SBBW (R63). The reserved value 3 is no operand: it does not decode. -/
inductive CarrySel where
  | zero  -- cin = 0: the constant 0
  | one   -- cin = 1: the constant 1
  | flag  -- cin = 2: the current value of CF
deriving DecidableEq, Repr

/-- The commands, with operands in the order of the assembler syntax of R70. -/
inductive Instr where
  /-- MULW Wh, Wl, Wa, Wb (R83): `rd` takes the high half, `rc` the low half. -/
  | mulw (rd rc ra rb : WReg)
  /-- ADCW Wd, Wa, Wb, c (R84). -/
  | adcw (rd ra rb : WReg) (c : CarrySel)
  /-- SBBW Wd, Wa, Wb, c (R85). -/
  | sbbw (rd ra rb : WReg) (c : CarrySel)
  /-- ADD Bd, Ba, Bb (R91). -/
  | add (rd ra rb : BReg)
  /-- SUB Bd, Ba, Bb (R92). -/
  | sub (rd ra rb : BReg)
  /-- CMP Ba, Bb (R93). -/
  | cmp (ra rb : BReg)
  /-- MULF Bd, Ba, Bb (R94): writes the pair Bd (even), Bd+1. -/
  | mulf (rd ra rb : BReg)
  /-- SHL Bd, Ba, Wc (R96). -/
  | shl (rd ra : BReg) (rc : WReg)
  /-- SHR Bd, Ba, Wc (R97). -/
  | shr (rd ra : BReg) (rc : WReg)
  /-- SETMOD Ba (R113). -/
  | setmod (ra : BReg)
  /-- TOMONT Bd, Ba (R116). -/
  | tomont (rd ra : BReg)
  /-- MONTMUL Bd, Ba, Bb (R117). -/
  | montmul (rd ra rb : BReg)
  /-- FROMMONT Bd, Ba (R118). -/
  | frommont (rd ra : BReg)
  /-- MODEXP Bd, Ba, Bb (R132): Ba the base, Bb the exponent. -/
  | modexp (rd ra rb : BReg)
  /-- RSAT Bd, Ba, Bb (R133): Ba the message, Bb the exponent. -/
  | rsat (rd ra rb : BReg)
  /-- ZEROIZE (R145). -/
  | zeroize
deriving DecidableEq, Repr

end Sys2Proof
end

