-- ==== Sys2Proof/Decode.lean ====
section
/-! DEFINITION. The decoder of R69, total on every 64-bit CMD value and rejecting by name, and the encoder of the
same format F (R61) and field table (R65). -/

namespace Sys2Proof

/-- The seven fields of the 32-bit command word (R61). -/
structure Fields where
  op  : BitVec 8
  rd  : BitVec 4
  ra  : BitVec 4
  rb  : BitVec 4
  rc  : BitVec 4
  z   : BitVec 6
  cin : BitVec 2
deriving DecidableEq, Repr

/-- The sixteen opcodes (R64). -/
inductive Op where
  | mulw | adcw | sbbw
  | add | sub | cmp | mulf | shl | shr
  | setmod | tomont | montmul | frommont
  | modexp | rsat
  | zeroize
deriving DecidableEq, Repr

/-- How an opcode uses a field: the marks `0`, `W`, `B` and `ci` of R65. -/
inductive Use where
  | zero | word | big | carry
deriving DecidableEq, Repr

/-- One row of the field table R65. -/
structure FieldUse where
  rd  : Use
  ra  : Use
  rb  : Use
  rc  : Use
  cin : Use
deriving DecidableEq, Repr

/-- Why a CMD value spells no command: the causes of R67, each completing with InvalidOperand. -/
inductive Illegal where
  /-- Bits 63:32 of the CMD value are not zero. -/
  | upperBits
  /-- `op` is not one of the sixteen of R64. -/
  | reservedOpcode
  /-- `z` (bits 7:2) is not zero. -/
  | zField
  /-- A field the opcode does not use is not zero. -/
  | unusedField
  /-- A used register field holds 8 .. 15. -/
  | registerNumber
  /-- `cin` = 3 on ADCW or SBBW. -/
  | carrySelect
  /-- `rd` = `rc` on MULW. -/
  | sameDestination
  /-- `rd` odd on MULF. -/
  | oddPair
deriving DecidableEq, Repr

/-! ### The opcode map (R64) and the field table (R65) -/

/-- The opcode value of each command (R64). -/
def opCode : Op → BitVec 8
  | .mulw => 0x01
  | .adcw => 0x02
  | .sbbw => 0x03
  | .add => 0x10
  | .sub => 0x11
  | .cmp => 0x12
  | .mulf => 0x13
  | .shl => 0x14
  | .shr => 0x15
  | .setmod => 0x20
  | .tomont => 0x21
  | .montmul => 0x22
  | .frommont => 0x23
  | .modexp => 0x30
  | .rsat => 0x31
  | .zeroize => 0xF0

/-- All sixteen opcodes, in the order of R64. -/
def allOps : List Op :=
  [.mulw, .adcw, .sbbw, .add, .sub, .cmp, .mulf, .shl, .shr,
   .setmod, .tomont, .montmul, .frommont, .modexp, .rsat, .zeroize]

/-- The opcode that a value of `op` names; none for the 240 reserved values (R64). -/
def opOfCode (c : BitVec 8) : Option Op :=
  allOps.find? fun o => opCode o == c

/-- Field use per opcode: R65, row by row. -/
def fieldUse : Op → FieldUse
  | .mulw     => { rd := .word, ra := .word, rb := .word, rc := .word, cin := .zero }
  | .adcw     => { rd := .word, ra := .word, rb := .word, rc := .zero, cin := .carry }
  | .sbbw     => { rd := .word, ra := .word, rb := .word, rc := .zero, cin := .carry }
  | .add      => { rd := .big,  ra := .big,  rb := .big,  rc := .zero, cin := .zero }
  | .sub      => { rd := .big,  ra := .big,  rb := .big,  rc := .zero, cin := .zero }
  | .cmp      => { rd := .zero, ra := .big,  rb := .big,  rc := .zero, cin := .zero }
  | .mulf     => { rd := .big,  ra := .big,  rb := .big,  rc := .zero, cin := .zero }
  | .shl      => { rd := .big,  ra := .big,  rb := .zero, rc := .word, cin := .zero }
  | .shr      => { rd := .big,  ra := .big,  rb := .zero, rc := .word, cin := .zero }
  | .setmod   => { rd := .zero, ra := .big,  rb := .zero, rc := .zero, cin := .zero }
  | .tomont   => { rd := .big,  ra := .big,  rb := .zero, rc := .zero, cin := .zero }
  | .montmul  => { rd := .big,  ra := .big,  rb := .big,  rc := .zero, cin := .zero }
  | .frommont => { rd := .big,  ra := .big,  rb := .zero, rc := .zero, cin := .zero }
  | .modexp   => { rd := .big,  ra := .big,  rb := .big,  rc := .zero, cin := .zero }
  | .rsat     => { rd := .big,  ra := .big,  rb := .big,  rc := .zero, cin := .zero }
  | .zeroize  => { rd := .zero, ra := .zero, rb := .zero, rc := .zero, cin := .zero }

/-! ### Fields of the command word (R61) -/

/-- Cut a command word into its fields (R61). -/
def fieldsOf (c : CmdWord) : Fields :=
  { op  := c.extractLsb' 24 8
    rd  := c.extractLsb' 20 4
    ra  := c.extractLsb' 16 4
    rb  := c.extractLsb' 12 4
    rc  := c.extractLsb' 8 4
    z   := c.extractLsb' 2 6
    cin := c.extractLsb' 0 2 }

/-- Put the fields together, most significant first (R61). -/
def wordOf (f : Fields) : CmdWord :=
  f.op ++ (f.rd ++ (f.ra ++ (f.rb ++ (f.rc ++ (f.z ++ f.cin)))))

/-- The register a 4-bit field names; only used on a field that has passed the check `registerNumber`. -/
def regOf (n : BitVec 4) : Fin 8 := ⟨n.toNat % 8, Nat.mod_lt _ (by decide)⟩

/-- The 4-bit field of a register number. -/
def nibble (r : Fin 8) : BitVec 4 := BitVec.ofNat 4 r.val

/-- The carry select of a 2-bit field (R63); only used on a field that has passed the check `carrySelect`. -/
def selOf (c : BitVec 2) : CarrySel :=
  if c = 0 then .zero else if c = 1 then .one else .flag

/-- The 2-bit field of a carry select (R63). -/
def selBits : CarrySel → BitVec 2
  | .zero => 0
  | .one => 1
  | .flag => 2

/-! ### The decoder (R69) -/

/-- A register field is fit for its use: zero where unused (R62). -/
def unusedIsZero (u : Use) (n : BitVec 4) : Bool := u != .zero || n == 0

/-- A used register field names a register: 0 .. 7 (R62). -/
def regInRange (u : Use) (n : BitVec 4) : Bool := u == .zero || decide (n.toNat ≤ 7)

/-- Every field the opcode does not use is zero (R69, first loop). -/
def unusedFieldsZero (u : FieldUse) (f : Fields) : Bool :=
  unusedIsZero u.rd f.rd && unusedIsZero u.ra f.ra && unusedIsZero u.rb f.rb && unusedIsZero u.rc f.rc
    && (u.cin != .zero || f.cin == 0)

/-- Every used register field is at most 7 (R69, second loop). -/
def regsInRange (u : FieldUse) (f : Fields) : Bool :=
  regInRange u.rd f.rd && regInRange u.ra f.ra && regInRange u.rb f.rb && regInRange u.rc f.rc

/-- The command that checked fields spell. -/
def build (op : Op) (f : Fields) : Instr :=
  match op with
  | .mulw => .mulw (regOf f.rd) (regOf f.rc) (regOf f.ra) (regOf f.rb)
  | .adcw => .adcw (regOf f.rd) (regOf f.ra) (regOf f.rb) (selOf f.cin)
  | .sbbw => .sbbw (regOf f.rd) (regOf f.ra) (regOf f.rb) (selOf f.cin)
  | .add => .add (regOf f.rd) (regOf f.ra) (regOf f.rb)
  | .sub => .sub (regOf f.rd) (regOf f.ra) (regOf f.rb)
  | .cmp => .cmp (regOf f.ra) (regOf f.rb)
  | .mulf => .mulf (regOf f.rd) (regOf f.ra) (regOf f.rb)
  | .shl => .shl (regOf f.rd) (regOf f.ra) (regOf f.rc)
  | .shr => .shr (regOf f.rd) (regOf f.ra) (regOf f.rc)
  | .setmod => .setmod (regOf f.ra)
  | .tomont => .tomont (regOf f.rd) (regOf f.ra)
  | .montmul => .montmul (regOf f.rd) (regOf f.ra) (regOf f.rb)
  | .frommont => .frommont (regOf f.rd) (regOf f.ra)
  | .modexp => .modexp (regOf f.rd) (regOf f.ra) (regOf f.rb)
  | .rsat => .rsat (regOf f.rd) (regOf f.ra) (regOf f.rb)
  | .zeroize => .zeroize

/-- The checks of R69 on the fields, in the reference order (which cannot be observed). -/
def decodeFields (f : Fields) : Except Illegal Instr :=
  match opOfCode f.op with
  | none => .error .reservedOpcode
  | some op =>
    if f.z ≠ 0 then .error .zField
    else if !unusedFieldsZero (fieldUse op) f then .error .unusedField
    else if !regsInRange (fieldUse op) f then .error .registerNumber
    else if (fieldUse op).cin = .carry ∧ f.cin = 3 then .error .carrySelect
    else if op = .mulw ∧ f.rd = f.rc then .error .sameDestination
    else if op = .mulf ∧ f.rd.getLsbD 0 = true then .error .oddPair
    else .ok (build op f)

/-- The decoder of R69 on a 64-bit CMD value: exactly one command, or the reason why there is none (R66). -/
def decode (v : Word) : Except Illegal Instr :=
  if v.extractLsb' 32 32 ≠ 0 then .error .upperBits
  else decodeFields (fieldsOf (v.extractLsb' 0 32))

/-! ### The match and mask columns of R65 -/

/-- The `match` column of R65. -/
def rowMatch : Op → CmdWord
  | .mulw => 0x01000000
  | .adcw => 0x02000000
  | .sbbw => 0x03000000
  | .add => 0x10000000
  | .sub => 0x11000000
  | .cmp => 0x12000000
  | .mulf => 0x13000000
  | .shl => 0x14000000
  | .shr => 0x15000000
  | .setmod => 0x20000000
  | .tomont => 0x21000000
  | .montmul => 0x22000000
  | .frommont => 0x23000000
  | .modexp => 0x30000000
  | .rsat => 0x31000000
  | .zeroize => 0xF0000000

/-- The `mask` column of R65. -/
def rowMask : Op → CmdWord
  | .mulw => 0xFF8888FF
  | .adcw => 0xFF888FFC
  | .sbbw => 0xFF888FFC
  | .add => 0xFF888FFF
  | .sub => 0xFF888FFF
  | .cmp => 0xFFF88FFF
  | .mulf => 0xFF988FFF
  | .shl => 0xFF88F8FF
  | .shr => 0xFF88F8FF
  | .setmod => 0xFFF8FFFF
  | .tomont => 0xFF88FFFF
  | .montmul => 0xFF888FFF
  | .frommont => 0xFF88FFFF
  | .modexp => 0xFF888FFF
  | .rsat => 0xFF888FFF
  | .zeroize => 0xFFFFFFFF

/-- The `further condition` column of R65. -/
def furtherCondition (op : Op) (c : CmdWord) : Bool :=
  match op with
  | .mulw => (fieldsOf c).rd != (fieldsOf c).rc
  | .adcw => (fieldsOf c).cin != 3
  | .sbbw => (fieldsOf c).cin != 3
  | .add => true
  | .sub => true
  | .cmp => true
  | .mulf => true
  | .shl => true
  | .shr => true
  | .setmod => true
  | .tomont => true
  | .montmul => true
  | .frommont => true
  | .modexp => true
  | .rsat => true
  | .zeroize => true

/-- A command word matches a row of R65 and meets its further condition. -/
def matchesRow (op : Op) (c : CmdWord) : Bool :=
  (c &&& rowMask op) == rowMatch op && furtherCondition op c

/-! ### The encoder -/

/-- The opcode of a command. -/
def opOf : Instr → Op
  | .mulw _ _ _ _ => .mulw
  | .adcw _ _ _ _ => .adcw
  | .sbbw _ _ _ _ => .sbbw
  | .add _ _ _ => .add
  | .sub _ _ _ => .sub
  | .cmp _ _ => .cmp
  | .mulf _ _ _ => .mulf
  | .shl _ _ _ => .shl
  | .shr _ _ _ => .shr
  | .setmod _ => .setmod
  | .tomont _ _ => .tomont
  | .montmul _ _ _ => .montmul
  | .frommont _ _ => .frommont
  | .modexp _ _ _ => .modexp
  | .rsat _ _ _ => .rsat
  | .zeroize => .zeroize

/-- Fields with every operand field zero. -/
def blankFields (op : Op) : Fields :=
  { op := opCode op, rd := 0, ra := 0, rb := 0, rc := 0, z := 0, cin := 0 }

/-- The fields of a command (R65, R70). -/
def encodeFields (i : Instr) : Fields :=
  let f := blankFields (opOf i)
  match i with
  | .mulw rd rc ra rb => { f with rd := nibble rd, ra := nibble ra, rb := nibble rb, rc := nibble rc }
  | .adcw rd ra rb c => { f with rd := nibble rd, ra := nibble ra, rb := nibble rb, cin := selBits c }
  | .sbbw rd ra rb c => { f with rd := nibble rd, ra := nibble ra, rb := nibble rb, cin := selBits c }
  | .add rd ra rb => { f with rd := nibble rd, ra := nibble ra, rb := nibble rb }
  | .sub rd ra rb => { f with rd := nibble rd, ra := nibble ra, rb := nibble rb }
  | .cmp ra rb => { f with ra := nibble ra, rb := nibble rb }
  | .mulf rd ra rb => { f with rd := nibble rd, ra := nibble ra, rb := nibble rb }
  | .shl rd ra rc => { f with rd := nibble rd, ra := nibble ra, rc := nibble rc }
  | .shr rd ra rc => { f with rd := nibble rd, ra := nibble ra, rc := nibble rc }
  | .setmod ra => { f with ra := nibble ra }
  | .tomont rd ra => { f with rd := nibble rd, ra := nibble ra }
  | .montmul rd ra rb => { f with rd := nibble rd, ra := nibble ra, rb := nibble rb }
  | .frommont rd ra => { f with rd := nibble rd, ra := nibble ra }
  | .modexp rd ra rb => { f with rd := nibble rd, ra := nibble ra, rb := nibble rb }
  | .rsat rd ra rb => { f with rd := nibble rd, ra := nibble ra, rb := nibble rb }
  | .zeroize => f

/-- The 32-bit command word of a command (R61). -/
def encode (i : Instr) : CmdWord := wordOf (encodeFields i)

/-- The 64-bit value the host writes to CMD: the command word zero-extended (R60). -/
def cmdValue (i : Instr) : Word := (encode i).setWidth 64

/-! ### The host's question about the opcode table -/

/-- The CMD value whose low `nbits` bits are `w` and whose other bits are zero: a command is one word, so the
table's bit i is bit i of the CMD value (R60). -/
def tableValue (nbits w : Nat) : Word := BitVec.ofNat 64 (w % 2 ^ nbits)

/-- What the decoder reads from a row of spec/opcode_table.json filled to the bits `w`. -/
def decodeTableWord (nbits w : Nat) : Option Instr := (decode (tableValue nbits w)).toOption

end Sys2Proof
end

