-- ==== Sys2Proof/Config.lean ====
section
/-! DEFINITION. What an implementation fixes (R10, R12) and the one free value of the model (R190). -/

namespace Sys2Proof

/-- The capacity `State.reset` has: the value 92_eei_decisions.md names "if a model must pick one".
DESIGN CHOICE (log entry 1): the spec leaves NLIMBS open, 1 .. 256; unsafe only for a claim that starts from
`State.reset` alone, since every other statement is about any capacity. -/
def Config.defaultLimbs : Nat := 32

/-- The largest capacity (R10). -/
def Config.maxLimbs : Nat := 256

/-- The number of BigUint registers, NB (R12). -/
def Config.nb : Nat := 8

/-- The number of word registers, NW (R12). -/
def Config.nw : Nat := 8

/-- The architecture version, VER (R2, R12). -/
def Config.ver : Nat := 1

/-- FREE VALUE (log entry 3, safe): for how many steps the engine works on the n-th issued command before its
completion. R190: "finite and not specified". It has no body, so no proof can see a value of it. -/
opaque Config.latency : Nat → Nat

end Sys2Proof
end

