-- ==== Sys2Proof/Machine/State.lean ====
section
/-! DEFINITION. The architectural state of one BIGCORE (R20), the port's held transaction (R49), and the model's own
fields for the host's script and the engine's unspecified latency. All of it is plain data. -/

namespace Sys2Proof.Machine

/-- The result code ERR (R151, R152). The codes 5 to 15 are never produced and have no name (V3). -/
inductive ErrKind where
  | ok
  | invalidOperand
  | valueOutOfRange
  /-- Reserved: BIGCORE never produces it (R153). -/
  | entropyExhausted
  | nonInvertible
deriving DecidableEq, Repr

/-- The comparison result ORD; the value 3 does not exist (R25, V4). -/
inductive Order where
  | equal | less | greater
deriving DecidableEq, Repr

/-- The context slot CTX (R27): a modulus, N′, and the number of limbs of R. -/
structure Ctx where
  valid : Bool
  n     : List Word
  np    : List Word
  rl    : Nat
deriving DecidableEq, Repr

/-- A port transaction (R41). -/
inductive Txn where
  | read (a : Addr)
  | write (a : Addr) (v : Word)
deriving DecidableEq, Repr

/-- What the world outside may do next: the host sends a transaction, or the platform asserts reset (R150, R176). -/
inductive HostEvent where
  | txn (t : Txn)
  | reset
deriving DecidableEq, Repr

/-- How the port answers a transaction: a read with one 64-bit value, a write with an acknowledgement (R41). -/
inductive Answer where
  | data (v : Word)
  | ack
deriving DecidableEq, Repr

/-- The state. The first ten fields and `cmdr` are the spec's (R20, R36); `held` is the transaction of R49;
`host`, `answers`, `issues` and `work` are the model's own. -/
structure State where
  /-- L = NLIMBS, fixed for the life of the block (R10, R36). -/
  nlimbs  : Nat
  /-- W[0..7] (R21). -/
  w       : Vector Word 8
  /-- B[0..7], each an array of L limbs, least significant first (R22, R23). -/
  b       : Vector (List Word) 8
  /-- CF (R24). -/
  cf      : Bool
  /-- ORD (R25). -/
  ord     : Order
  /-- CTX (R27). -/
  ctx     : Ctx
  /-- BUSY (R29). -/
  busy    : Bool
  /-- ERR (R29). -/
  err     : ErrKind
  /-- CMDR, the command latch (R32). -/
  cmdr    : Word
  /-- The transaction the port has accepted and not yet answered (R49). -/
  held    : Option Txn
  /-- The model's own: the events still to come from outside, oldest first. -/
  host    : List HostEvent
  /-- The model's own: the port's answers so far, oldest first. -/
  answers : List Answer
  /-- The model's own: the number of commands issued, the argument of `Config.latency`. -/
  issues  : Nat
  /-- The model's own: the steps the engine still needs before the running command's completion. -/
  work    : Nat
deriving DecidableEq, Repr

/-- Faults: none. R166: "No stuck state, no hang, no fault"; "A model therefore needs no fault or stuck outcome for
BIGCORE itself". Nothing raises a fault, so the type has no constructor (safe). -/
inductive Fault where
deriving DecidableEq, Repr

/-- Refusals. -/
inductive Refusal where
  /-- Raised by an arm of `exec` for an instruction that has no meaning yet. Safe. No arm raises it now. -/
  | notModelled (mnemonic : String)
deriving DecidableEq, Repr

/-- An array of L zero limbs. -/
def zeroLimbs (L : Nat) : List Word := List.replicate L 0

/-- The context slot with nothing in it (R28, R35). -/
def Ctx.empty (L : Nat) : Ctx := { valid := false, n := zeroLimbs L, np := zeroLimbs L, rl := 0 }

/-- The block of capacity L right after reset: every state element is zero (R35, R176), nothing is held (R176), and
the model's own fields are empty or 0 (DESIGN CHOICE, log entries 2 and 3). -/
def State.resetOf (L : Nat) : State :=
  { nlimbs := L
    w := Vector.replicate 8 0
    b := Vector.replicate 8 (zeroLimbs L)
    cf := false
    ord := .equal
    ctx := Ctx.empty L
    busy := false
    err := .ok
    cmdr := 0
    held := none
    host := []
    answers := []
    issues := 0
    work := 0 }

/-- The machine right after reset, at the spec's default capacity (DESIGN CHOICE, log entry 1). -/
def State.reset : State := State.resetOf Config.defaultLimbs

end Sys2Proof.Machine
end

