-- ==== Sys2Proof/Machine/Flags.lean ====
section
/-! DEFINITION. What the flags CF and ORD are computed from (R24, R25), and the FLAGS word (R26). -/

namespace Sys2Proof.Machine

/-- carryOut of a limb sum and `overflowed` of a whole sum: the exact sum reaches the bound (R81, R91). -/
def carryOf (sum bound : Nat) : Bool := decide (bound ≤ sum)

/-- borrowOut of a limb difference and `borrowed` of a whole one: the minuend is below the subtrahend (R82, R92). -/
def borrowOf (a b : Nat) : Bool := decide (a < b)

/-- ORD of a comparison of a with b (R93). -/
def compareInts (a b : Nat) : Order := if a = b then .equal else if a < b then .less else .greater

/-- The two bits of ORD: 0 Equal, 1 Less, 2 Greater (R25). -/
def ordCode : Order → Nat
  | .equal => 0
  | .less => 1
  | .greater => 2

/-- A flag as the number 0 or 1. -/
def bit (c : Bool) : Nat := if c then 1 else 0

/-- The FLAGS register: bit 0 = CF, bits 2:1 = ORD, the rest 0 (R26). -/
def flagsWord (s : State) : Word := BitVec.ofNat 64 (bit s.cf + 2 * ordCode s.ord)

end Sys2Proof.Machine
end

