-- ==== Sys2Proof/Machine/Limbs.lean ====
section
/-! DEFINITION. BigUint values as arrays of limbs, least significant first (R15, R23, R46). -/

namespace Sys2Proof.Machine

/-- `val`: the integer that an array of limbs represents (R15, R23). -/
def val : List Word → Nat
  | [] => 0
  | l :: ls => l.toNat + 2 ^ 64 * val ls

/-- `limbs_n(v)`: the decomposition of v into n limbs, least significant first (R15). -/
def limbs : Nat → Nat → List Word
  | 0, _ => []
  | n + 1, v => BitVec.ofNat 64 v :: limbs n (v / 2 ^ 64)

/-- `bitlen(v)`: 0 for 0, otherwise the position of the highest set bit plus one (R15). -/
def bitlen (v : Nat) : Nat := if v = 0 then 0 else Nat.log2 v + 1

/-- The number of bits of n limbs' values: 2^(64 n) (R10). -/
def radix (n : Nat) : Nat := 2 ^ (64 * n)

end Sys2Proof.Machine
end

