-- ==== Sys2Proof/Machine/Ops.lean ====
section
/-! DEFINITION. The named operations over registers, and the two ways a command completes (R15, R17, R90, R150, R156). -/

namespace Sys2Proof.Machine

/-- What a meaning answers. -/
abbrev Res := Host.Outcome State Fault Refusal

/-! ### Registers -/

/-- `W[r]` (R15). -/
def getW (s : State) (r : Fin 8) : Word := s.w[r]

/-- `W[r] <- v` (R15). -/
def setW (s : State) (r : Fin 8) (v : Word) : State := { s with w := s.w.set r v }

/-- The limbs of `B[r]` (R15, R22). -/
def getB (s : State) (r : Fin 8) : List Word := s.b[r]

/-- `val(B[r])` (R15, R23). -/
def valB (s : State) (r : Fin 8) : Nat := val (getB s r)

/-- `B[r] <- v`: all L limbs are written, the high zero limbs too (R15, R23). -/
def setB (s : State) (r : Fin 8) (v : Nat) : State := { s with b := s.b.set r (limbs s.nlimbs v) }

/-- `B[r].limb[j]`; 0 where the register has no limb j (R15). -/
def getLimb (s : State) (r : Fin 8) (j : Nat) : Word := (getB s r).getD j 0

/-- `B[r].limb[j] <- v`, leaving the other limbs (R43). -/
def setLimb (s : State) (r : Fin 8) (j : Nat) (v : Word) : State :=
  { s with b := s.b.set r ((getB s r).set j v) }

/-- `CF <- c`. -/
def setCF (s : State) (c : Bool) : State := { s with cf := c }

/-- `ORD <- o`. -/
def setOrd (s : State) (o : Order) : State := { s with ord := o }

/-- The whole context slot is written together (R28). -/
def setCtx (s : State) (c : Ctx) : State := { s with ctx := c }

/-- The modulus in the slot, val(CTX.N). -/
def modulus (s : State) : Nat := val s.ctx.n

/-- N′, val(CTX.NP). -/
def nPrime (s : State) : Nat := val s.ctx.np

/-- The Montgomery constant R = 2^(64 * CTX.RL) (R27, R111). -/
def montR (s : State) : Nat := radix s.ctx.rl

/-- Every W and B register, both flags and the context are cleared (R145, R176); nothing else is touched. -/
def clearAll (s : State) : State :=
  { s with
    w := Vector.replicate 8 0
    b := Vector.replicate 8 (zeroLimbs s.nlimbs)
    cf := false
    ord := .equal
    ctx := Ctx.empty s.nlimbs }

/-! ### Completion (R150, step 3) -/

/-- The end of a completion: ERR takes the code, BUSY falls. -/
def finish (k : ErrKind) (s : State) : State := { s with err := k, busy := false }

/-- Success: the destinations are written already, `ERR <- 0`, `BUSY <- 0` (R17, R150). -/
def succeed (s : State) : Res := .next (finish .ok s)

/-- Error completion, BIGCORE's only exception entry: `ERR <- code`, `BUSY <- 0`, nothing else (R156). There is no
return from it: the block is idle and takes the next command at once (R158). -/
def raise (k : ErrKind) (s : State) : Res := .next (finish k s)

/-- The context check of R120: before any check on operand values, after decoding (R155). -/
def needContext (s : State) (m : Res) : Res :=
  if s.ctx.valid then m else raise .invalidOperand s

end Sys2Proof.Machine
end

