-- ==== Sys2Proof/Machine/Operands.lean ====
section
/-! DEFINITION. The operand forms: registers only (R62), the carry select (R63), the register pair of MULF (R94) and
the shift count (R96). -/

namespace Sys2Proof.Machine

/-- The carry-in or borrow-in that `cin` selects (R63): a constant, or the flag CF. -/
def carryIn (c : CarrySel) (s : State) : Bool :=
  match c with
  | .zero => false
  | .one => true
  | .flag => s.cf

/-- The upper register of the pair that starts at the even register `rd` (R94). -/
def pairHigh (rd : BReg) : BReg := rd + 1

/-- The shift count: the whole unsigned value of a word register (R96). -/
def shiftCount (s : State) (rc : WReg) : Nat := (getW s rc).toNat

end Sys2Proof.Machine
end

