-- ==== Sys2Proof/Machine/BigUint.lean ====
section
/-! DEFINITION. The BigUint commands ADD, SUB, CMP, MULF, SHL, SHR (R91 to R97) by their integer values. The limb-level
algorithms of R93, R95, R96, R97 and R98 stand in Reference.lean. -/

namespace Sys2Proof.Machine

/-- ADD (R91): the sum modulo 2^(64L), CF = overflowed. -/
def execAdd (rd ra rb : BReg) (s : State) : Res :=
  let sum := valB s ra + valB s rb
  succeed (setCF (setB s rd (sum % radix s.nlimbs)) (carryOf sum (radix s.nlimbs)))

/-- SUB (R92): the difference modulo 2^(64L), CF = borrowed. -/
def execSub (rd ra rb : BReg) (s : State) : Res :=
  let a := valB s ra
  let b := valB s rb
  succeed (setCF (setB s rd (if b ≤ a then a - b else a + radix s.nlimbs - b)) (borrowOf a b))

/-- CMP (R93): writes ORD and no register. -/
def execCmp (ra rb : BReg) (s : State) : Res :=
  succeed (setOrd s (compareInts (valB s ra) (valB s rb)))

/-- MULF (R94): the low half to `B[rd]`, the high half to `B[rd+1]`. -/
def execMulf (rd ra rb : BReg) (s : State) : Res :=
  let p := valB s ra * valB s rb
  succeed (setB (setB s rd (p % radix s.nlimbs)) (pairHigh rd) (p / radix s.nlimbs))

/-- A left shift within L limbs; 0 for a count of 64 L or more (R96). -/
def shiftLeft (L v count : Nat) : Nat :=
  if 64 * L ≤ count then 0 else v * 2 ^ count % radix L

/-- A logical right shift; 0 for a count of 64 L or more (R97). -/
def shiftRight (L v count : Nat) : Nat :=
  if 64 * L ≤ count then 0 else v / 2 ^ count

/-- SHL (R96). -/
def execShl (rd ra : BReg) (rc : WReg) (s : State) : Res :=
  succeed (setB s rd (shiftLeft s.nlimbs (valB s ra) (shiftCount s rc)))

/-- SHR (R97). -/
def execShr (rd ra : BReg) (rc : WReg) (s : State) : Res :=
  succeed (setB s rd (shiftRight s.nlimbs (valB s ra) (shiftCount s rc)))

end Sys2Proof.Machine
end

