-- ==== Sys2Proof/Machine/ModExp.lean ====
section
/-! DEFINITION. The modular exponentiation unit: the value of R130 and the commands MODEXP and RSAT (R132, R133). The
engine's Montgomery schedule (R131) stands in Reference.lean; R136 lets a model define MODEXP by the value. -/

namespace Sys2Proof.Machine

/-- b^e mod N by square and multiply over the k low bits of e, so that it can be evaluated for large e. -/
def powModBits (N b : Nat) : Nat → Nat → Nat
  | 0, _ => 1 % N
  | k + 1, e =>
    let h := powModBits N b k (e / 2)
    if e % 2 = 1 then h * h % N * b % N else h * h % N

/-- `ModExp(b, e, N) = (b^e) mod N` (R130). -/
def modExp (b e N : Nat) : Nat := powModBits N b (bitlen e) e

/-- MODEXP (R132): the base is any value. -/
def execModexp (rd ra rb : BReg) (s : State) : Res :=
  needContext s (succeed (setB s rd (modExp (valB s ra) (valB s rb) (modulus s))))

/-- RSAT (R133): MODEXP with the range check on the message. -/
def execRsat (rd ra rb : BReg) (s : State) : Res :=
  needContext s
    (if modulus s ≤ valB s ra then raise .valueOutOfRange s
     else succeed (setB s rd (modExp (valB s ra) (valB s rb) (modulus s))))

end Sys2Proof.Machine
end

