-- ==== Sys2Proof/Machine/Montgomery.lean ====
section
/-! DEFINITION. The Montgomery engine: the constants (R111, R112), the reduction (R114) and the commands SETMOD, TOMONT,
MONTMUL, FROMMONT (R113, R116 to R118). -/

namespace Sys2Proof.Machine

/-- n = ceil(bitlen(N) / 64): the number of limbs of R (R111). -/
def limbCount (v : Nat) : Nat := (bitlen v + 63) / 64

/-- Newton's iteration of R112, `k` times: x <- x (2 - N x) mod R. -/
def newton (N R : Nat) : Nat → Nat → Nat
  | 0, x => x
  | k + 1, x => newton N R k (x * (2 + (R - N * x % R)) % R)

/-- The inverse of an odd N modulo R = 2^k: ceil(log2 k) Newton steps from x = 1 (R112). -/
def invModR (N n : Nat) : Nat := newton N (radix n) (bitlen (64 * n - 1)) (1 % radix n)

/-- N′ = −N⁻¹ mod R (R112): the only value below R with N N′ ≡ −1 (mod R). -/
def nPrimeOf (N n : Nat) : Nat := (radix n - invModR N n) % radix n

/-- The reduction steps of R114 on a double-width t. -/
def reduce (N Np n t : Nat) : Nat :=
  let m := t % radix n * Np % radix n
  let u := (t + m * N) / radix n
  if N ≤ u then u - N else u

/-- `MontMul(a, b)` (R114). -/
def montMul (N Np n a b : Nat) : Nat := reduce N Np n (a * b)

/-- The context for an odd modulus N in a block of capacity L (R113). -/
def buildCtx (L N : Nat) : Ctx :=
  { valid := true
    n := limbs L N
    np := limbs L (nPrimeOf N (limbCount N))
    rl := limbCount N }

/-- SETMOD (R113): every even N, zero included, raises NonInvertible and leaves the slot as it was. -/
def execSetmod (ra : BReg) (s : State) : Res :=
  if valB s ra % 2 = 0 then raise .nonInvertible s
  else succeed (setCtx s (buildCtx s.nlimbs (valB s ra)))

/-- TOMONT (R116): defined for every x, also x >= N. -/
def execTomont (rd ra : BReg) (s : State) : Res :=
  needContext s (succeed (setB s rd (valB s ra * montR s % modulus s)))

/-- MONTMUL (R117): both sources must be below N. -/
def execMontmul (rd ra rb : BReg) (s : State) : Res :=
  needContext s
    (if modulus s ≤ valB s ra ∨ modulus s ≤ valB s rb then raise .valueOutOfRange s
     else succeed (setB s rd (montMul (modulus s) (nPrime s) s.ctx.rl (valB s ra) (valB s rb))))

/-- FROMMONT (R118): the steps of R114 with t = x * 1; the multiplier 1 is not range-checked. -/
def execFrommont (rd ra : BReg) (s : State) : Res :=
  needContext s
    (if modulus s ≤ valB s ra then raise .valueOutOfRange s
     else succeed (setB s rd (montMul (modulus s) (nPrime s) s.ctx.rl (valB s ra) 1)))

end Sys2Proof.Machine
end

