-- ==== Sys2Proof/Machine/SystemCmd.lean ====
section
/-! DEFINITION. The system command ZEROIZE (R145). -/

namespace Sys2Proof.Machine

/-- ZEROIZE (R145): every register, both flags and the context are cleared; ERR = 0. -/
def execZeroize (s : State) : Res := succeed (clearAll s)

end Sys2Proof.Machine
end

