-- ==== Sys2Proof/Machine/WordPrims.lean ====
section
/-! DEFINITION. The word arithmetic primitives as functions (R80 to R82) and as the commands MULW, ADCW, SBBW
(R83 to R85). -/

namespace Sys2Proof.Machine

/-- The exact 128-bit product, split into (high, low) (R80). -/
def wideMultiply (a b : Word) : Word × Word :=
  let p := a.toNat * b.toNat
  (BitVec.ofNat 64 (p / 2 ^ 64), BitVec.ofNat 64 p)

/-- (sum, carryOut) of a + b + carryIn (R81). -/
def addWithCarry (a b : Word) (c : Bool) : Word × Bool :=
  let t := a.toNat + b.toNat + bit c
  (BitVec.ofNat 64 t, carryOf t (2 ^ 64))

/-- (diff, borrowOut) of a - b - borrowIn (R82). -/
def subWithBorrow (a b : Word) (c : Bool) : Word × Bool :=
  let t := b.toNat + bit c
  (BitVec.ofNat 64 (a.toNat + 2 ^ 64 - t), borrowOf a.toNat t)

/-- MULW (R83): both sources are read before either half is written. -/
def execMulw (rd rc ra rb : WReg) (s : State) : Res :=
  let p := wideMultiply (getW s ra) (getW s rb)
  succeed (setW (setW s rd p.1) rc p.2)

/-- ADCW (R84). -/
def execAdcw (rd ra rb : WReg) (c : CarrySel) (s : State) : Res :=
  let r := addWithCarry (getW s ra) (getW s rb) (carryIn c s)
  succeed (setCF (setW s rd r.1) r.2)

/-- SBBW (R85): `ra` is the minuend. -/
def execSbbw (rd ra rb : WReg) (c : CarrySel) (s : State) : Res :=
  let r := subWithBorrow (getW s ra) (getW s rb) (carryIn c s)
  succeed (setCF (setW s rd r.1) r.2)

end Sys2Proof.Machine
end

