-- ==== Sys2Proof/Machine/Dispatch.lean ====
section
/-! DEFINITION. The effect of a decoded command at its completion (R150, step 3): one arm per constructor. -/

namespace Sys2Proof.Machine

def exec (i : Instr) (s : State) : Host.Outcome State Fault Refusal :=
  match i with
  | .mulw rd rc ra rb => Sys2Proof.Machine.execMulw rd rc ra rb s
  | .adcw rd ra rb c => Sys2Proof.Machine.execAdcw rd ra rb c s
  | .sbbw rd ra rb c => Sys2Proof.Machine.execSbbw rd ra rb c s
  | .add rd ra rb => Sys2Proof.Machine.execAdd rd ra rb s
  | .sub rd ra rb => Sys2Proof.Machine.execSub rd ra rb s
  | .cmp ra rb => Sys2Proof.Machine.execCmp ra rb s
  | .mulf rd ra rb => Sys2Proof.Machine.execMulf rd ra rb s
  | .shl rd ra rc => Sys2Proof.Machine.execShl rd ra rc s
  | .shr rd ra rc => Sys2Proof.Machine.execShr rd ra rc s
  | .setmod ra => Sys2Proof.Machine.execSetmod ra s
  | .tomont rd ra => Sys2Proof.Machine.execTomont rd ra s
  | .montmul rd ra rb => Sys2Proof.Machine.execMontmul rd ra rb s
  | .frommont rd ra => Sys2Proof.Machine.execFrommont rd ra s
  | .modexp rd ra rb => Sys2Proof.Machine.execModexp rd ra rb s
  | .rsat rd ra rb => Sys2Proof.Machine.execRsat rd ra rb s
  | .zeroize => Sys2Proof.Machine.execZeroize s

end Sys2Proof.Machine
end

