-- ==== Sys2Proof/Machine/Port.lean ====
section
/-! DEFINITION. The host port: address map (R42 to R44), reads and writes (R47, R48), issue (R150), the hold while a
command runs (R49), reset (R176), and the turn the machine takes between issue and completion. -/

namespace Sys2Proof.Machine

/-- What a port address names (R42). -/
inductive PortReg where
  | cmd | status | flags | cap | ctxinfo
  | word (i : Fin 8)
  | limb (r : Fin 8) (j : Nat)
  | ctxN (j : Nat)
  | ctxNP (j : Nat)
  | reserved
deriving DecidableEq, Repr

/-- The register number in the bits 10:8 of a window address (R43). -/
def windowReg (a : Nat) : Fin 8 := ⟨a / 256 % 8, Nat.mod_lt _ (by decide)⟩

/-- A window of 256 addresses of which the first L exist (R42). -/
def window (L a : Nat) (reg : PortReg) : PortReg := if a % 256 < L then reg else .reserved

/-- The address map R42, for a block of capacity L. -/
def portReg (L : Nat) (addr : Addr) : PortReg :=
  let a := addr.toNat
  if a = 0x0000 then .cmd
  else if a = 0x0001 then .status
  else if a = 0x0002 then .flags
  else if a = 0x0003 then .cap
  else if a = 0x0004 then .ctxinfo
  else if 0x0010 ≤ a ∧ a < 0x0018 then .word ⟨a % 8, Nat.mod_lt _ (by decide)⟩
  else if 0x1000 ≤ a ∧ a < 0x1800 then window L a (.limb (windowReg a) (a % 256))
  else if 0x2000 ≤ a ∧ a < 0x2100 then window L a (.ctxN (a % 256))
  else if 0x2100 ≤ a ∧ a < 0x2200 then window L a (.ctxNP (a % 256))
  else .reserved

/-! ### The read-only words -/

/-- The 4-bit code of ERR (R152). -/
def errCode : ErrKind → Nat
  | .ok => 0
  | .invalidOperand => 1
  | .valueOutOfRange => 2
  | .entropyExhausted => 3
  | .nonInvertible => 4

/-- STATUS: bit 0 BUSY, bit 1 CTXV, bits 11:8 ERR, the rest 0 (R29). -/
def statusWord (s : State) : Word :=
  BitVec.ofNat 64 (bit s.busy + 2 * bit s.ctx.valid + 256 * errCode s.err)

/-- CAP: bits 15:0 L, 19:16 NB, 23:20 NW, 31:24 VER, the rest 0 (R30). -/
def capWord (s : State) : Word :=
  BitVec.ofNat 64 (s.nlimbs % 2 ^ 16 + 2 ^ 16 * Config.nb + 2 ^ 20 * Config.nw + 2 ^ 24 * Config.ver)

/-- CTXINFO: bit 0 CTX.VALID, bits 24:16 CTX.RL, the rest 0 (R31). -/
def ctxInfoWord (s : State) : Word :=
  BitVec.ofNat 64 (bit s.ctx.valid + 2 ^ 16 * (s.ctx.rl % 2 ^ 9))

/-! ### Transactions (R41, R47, R48) -/

/-- The value a `PortRead` returns (R42 to R44); CMD and reserved addresses read 0 (R47, R48). -/
def portRead (s : State) (a : Addr) : Word :=
  match portReg s.nlimbs a with
  | .cmd => 0
  | .status => statusWord s
  | .flags => flagsWord s
  | .cap => capWord s
  | .ctxinfo => ctxInfoWord s
  | .word i => getW s i
  | .limb r j => getLimb s r j
  | .ctxN j => s.ctx.n.getD j 0
  | .ctxNP j => s.ctx.np.getD j 0
  | .reserved => 0

/-- Issue (R150, step 1): the word is latched and BUSY rises; ERR keeps its value. The engine's latency is the free
value of this issue (log entry 3). -/
def issue (s : State) (v : Word) : State :=
  { s with cmdr := v, busy := true, work := Config.latency s.issues, issues := s.issues + 1 }

/-- The effect of a `PortWrite` (R47, R48): CMD issues, W and B limbs are replaced, everything else ignores it. -/
def portWrite (s : State) (a : Addr) (v : Word) : State :=
  match portReg s.nlimbs a with
  | .cmd => issue s v
  | .word i => setW s i v
  | .limb r j => setLimb s r j v
  | .status => s
  | .flags => s
  | .cap => s
  | .ctxinfo => s
  | .ctxN _ => s
  | .ctxNP _ => s
  | .reserved => s

/-- The port's answer is recorded, newest last. -/
def answer (s : State) (x : Answer) : State := { s with answers := s.answers ++ [x] }

/-- Perform one transaction and answer it (R41). -/
def perform (s : State) (t : Txn) : State :=
  match t with
  | .read a => answer s (.data (portRead s a))
  | .write a v => answer (portWrite s a v) .ack

/-! ### Reset (R176) -/

/-- Reset: every state element takes the value of R35; a running command and a held transaction are dropped. The
model's own `host`, `answers` and `issues` go on (log entry 5). -/
def resetBlock (s : State) : State :=
  { clearAll s with busy := false, err := .ok, cmdr := 0, held := none, work := 0 }

/-! ### Turns (R49, R150) -/

/-- The transactions answered at once while BUSY = 1: a read of STATUS (R49). -/
def answeredWhileBusy (t : Txn) : Bool := t == .read 0x0001

/-- A turn with BUSY = 0: the held transaction is performed first (R49), else the next event from outside, else
nothing happens (R178). -/
def idleTurn (s : State) : State :=
  match s.held with
  | some t => perform { s with held := none } t
  | none =>
    match s.host with
    | [] => s
    | .txn t :: es => perform { s with host := es } t
    | .reset :: es => resetBlock { s with host := es }

/-- A turn with BUSY = 1; none when the engine is done and the turn is the completion. Reset takes effect at once;
a STATUS read is answered; any other transaction is held; while one is held the host can send no other (R49). Each
turn uses up one unit of the engine's free latency, so completion always comes (R190). -/
def busyTurn (s : State) : Option State :=
  if s.work = 0 then none
  else
    match s.host with
    | [] => some { s with work := s.work - 1 }
    | .reset :: es => some (resetBlock { s with host := es })
    | .txn t :: es =>
      match s.held with
      | some _ => some { s with work := s.work - 1 }
      | none =>
        if answeredWhileBusy t then some (perform { s with host := es, work := s.work - 1 } t)
        else some { s with host := es, work := s.work - 1, held := some t }

end Sys2Proof.Machine
end

