-- ==== Sys2Proof/Machine/Engine.lean ====
section
/-! DEFINITION. The engine's completion, and who takes the next turn (R150). -/

namespace Sys2Proof.Machine

/-- Completion (R150, step 3): CMDR is decoded and the command's rule evaluated on the current state; a value that
spells no command completes with InvalidOperand and no other change (R66). -/
def completion (s : State) : Res :=
  match Sys2Proof.decode s.cmdr with
  | .ok i => exec i s
  | .error _ => raise .invalidOperand s

/-- With BUSY = 0 the port takes its next turn; with BUSY = 1 the port's turns go on until the engine's free latency
is used up, and then the engine completes. -/
def turn (s : State) : Res :=
  if s.busy then
    match busyTurn s with
    | some t => .next t
    | none => completion s
  else .next (idleTurn s)

end Sys2Proof.Machine
end

