-- ==== Sys2Proof/Machine/Step.lean ====
section
/-! DEFINITION. One step of the machine (R150), and the placing of a command where the step completes it. -/

namespace Sys2Proof.Machine

/-- One step: a turn of the port, or the engine's completion (R150). -/
def step (s : State) : Host.Outcome State Fault Refusal := turn s

/-- The state in which the command whose low `nbits` bits are `w` has been issued and the engine is ready to complete
it: CMDR holds the value, BUSY = 1, no latency left. It stands for the host's write of CMD (log entry 7). -/
def State.withFetchWord (s : State) (nbits w : Nat) : State :=
  { s with cmdr := Sys2Proof.tableValue nbits w, busy := true, work := 0 }

end Sys2Proof.Machine
end

