-- ==== Sys2Proof/Machine/Reference.lean ====
section
/-! DEFINITION. The limb-level and Montgomery-level algorithms that the spec writes out as references: the ripple chains
(R98), the most-significant-first comparison (R93), schoolbook multiplication (R95), the limb form of the shifts (R96,
R97) and the exponentiation schedule (R131). No meaning calls them: statements say that they give the meanings' values. -/

namespace Sys2Proof.Machine

/-- A ripple-carry sum of two arrays of limbs with a carry-in (R98; RippleAdd starts with carry 0). -/
def rippleAdd : List Word → List Word → Bool → List Word × Bool
  | a :: as, b :: bs, c =>
    let r := addWithCarry a b c
    let rest := rippleAdd as bs r.2
    (r.1 :: rest.1, rest.2)
  | [], _, c => ([], c)
  | _, [], c => ([], c)

/-- A ripple-borrow difference of two arrays of limbs with a borrow-in (R98; RippleSub starts with borrow 0). -/
def rippleSub : List Word → List Word → Bool → List Word × Bool
  | a :: as, b :: bs, c =>
    let r := subWithBorrow a b c
    let rest := rippleSub as bs r.2
    (r.1 :: rest.1, rest.2)
  | [], _, c => ([], c)
  | _, [], c => ([], c)

/-- The limb form of CMP: the most significant pair of limbs that differ decides (R93). -/
def compareLimbs : List Word → List Word → Order
  | a :: as, b :: bs =>
    match compareLimbs as bs with
    | .equal => compareInts a.toNat b.toNat
    | o => o
  | [], _ => .equal
  | _, [] => .equal

/-- The inner loop of R95 over the limbs of a, for one limb `y` of b: the window t[i .. i+L-1] and the running carry
give the new window and, last, t[i+L]. -/
def mulRow (y : Word) : List Word → List Word → Word → List Word
  | x :: xs, t :: ts, carry =>
    let p := wideMultiply x y
    let s1 := addWithCarry t p.2 false
    let s2 := addWithCarry s1.1 carry false
    s2.1 :: mulRow y xs ts (p.1 + BitVec.ofNat 64 (bit s1.2) + BitVec.ofNat 64 (bit s2.2))
  | [], _, carry => [carry]
  | _, [], carry => [carry]

/-- The outer loop of R95 over the limbs of b: limb i of t is final after row i. -/
def mulRows (a : List Word) : List Word → List Word → List Word
  | [], t => t
  | y :: ys, t =>
    match mulRow y a t 0 with
    | [] => []
    | r :: rs => r :: mulRows a ys rs

/-- Schoolbook multiplication (R95): 2L limbs from two arrays of L limbs. -/
def schoolbook (a b : List Word) : List Word := mulRows a b (zeroLimbs a.length)

/-- Limb j of the left shift by s = 64 q + r (R96). -/
def shlLimb (a : List Word) (s j : Nat) : Word :=
  let q := s / 64
  let r := s % 64
  if j < q then 0
  else BitVec.ofNat 64 ((a.getD (j - q) 0).toNat * 2 ^ r % 2 ^ 64
    + (if 0 < r ∧ q + 1 ≤ j then (a.getD (j - q - 1) 0).toNat / 2 ^ (64 - r) else 0))

/-- Limb j of the right shift by s = 64 q + r (R97). -/
def shrLimb (a : List Word) (s j : Nat) : Word :=
  let q := s / 64
  let r := s % 64
  if a.length ≤ j + q then 0
  else BitVec.ofNat 64 ((a.getD (j + q) 0).toNat / 2 ^ r
    + (if 0 < r ∧ j + q + 1 < a.length then (a.getD (j + q + 1) 0).toNat * 2 ^ (64 - r) % 2 ^ 64 else 0))

/-- The loop of R131 over the bit positions i-1 down to 0 of e: always a square, always a multiply. -/
def expLoop (N Np n one bm e : Nat) : Nat → Nat → Nat
  | 0, acc => acc
  | i + 1, acc =>
    let sq := montMul N Np n acc acc
    expLoop N Np n one bm e i (montMul N Np n sq (if e.testBit i then bm else one))

/-- `ModExpAlg(b, e)` (R131) in a block of capacity L: conversions in and out, and 64 L rounds. -/
def modExpAlg (L N Np n b e : Nat) : Nat :=
  let one := 1 * radix n % N
  let bm := b * radix n % N
  montMul N Np n (expLoop N Np n one bm e (64 * L) one) 1

end Sys2Proof.Machine
end

