-- ==== Sys2Proof/WellFormed.lean ====
section
/-! DEFINITION. The conditions on operands that the types of `Instr` do not carry (R65, last column; R67). -/

namespace Sys2Proof

/-- The further conditions of R65: MULW's two destinations differ; MULF's destination is the even register of a
pair. Register numbers above 7 and cin = 3 cannot be written as a term of `Instr`. -/
def wellFormed : Instr → Bool
  | .mulw rd rc _ _ => rd != rc
  | .adcw _ _ _ _ => true
  | .sbbw _ _ _ _ => true
  | .add _ _ _ => true
  | .sub _ _ _ => true
  | .cmp _ _ => true
  | .mulf rd _ _ => rd.val % 2 == 0
  | .shl _ _ _ => true
  | .shr _ _ _ => true
  | .setmod _ => true
  | .tomont _ _ => true
  | .montmul _ _ _ => true
  | .frommont _ _ => true
  | .modexp _ _ _ => true
  | .rsat _ _ _ => true
  | .zeroize => true

end Sys2Proof
end

