-- ==== Sys2Proof/Safety.lean ====
section
/-! DEFINITION. What statements are about: the invariant of every reachable state (R22, R28, R153), what a command may
write (R26, R90), and when two states agree on what the spec gives the machine (R20). -/

namespace Sys2Proof.Machine

/-! ### The invariant -/

/-- The context invariant R28 in a block of capacity L. -/
abbrev CtxOk (L : Nat) (c : Ctx) : Prop :=
  c.n.length = L ∧ c.np.length = L ∧
  (c.valid = true →
    val c.n % 2 = 1 ∧ 1 ≤ c.rl ∧ c.rl ≤ L ∧ c.rl = limbCount (val c.n) ∧
    val c.n < radix c.rl ∧ radix c.rl ≤ 2 ^ 64 * val c.n ∧
    val c.n * val c.np % radix c.rl = radix c.rl - 1 ∧ val c.np < radix c.rl) ∧
  (c.valid = false → c.n = zeroLimbs L ∧ c.np = zeroLimbs L ∧ c.rl = 0)

/-- Every BigUint register has exactly L limbs (R22). -/
abbrev BanksOk (s : State) : Prop := ∀ r : Fin 8, (getB s r).length = s.nlimbs

/-- The capacity is one the architecture allows (R10). -/
abbrev CapacityOk (s : State) : Prop := 1 ≤ s.nlimbs ∧ s.nlimbs ≤ Config.maxLimbs

/-- What holds in every reachable state: the capacity bound (R10), L limbs a register (R22), the context invariant
(R28), and an ERR that is never the reserved code (R153). -/
abbrev Inv (s : State) : Prop :=
  CapacityOk s ∧ BanksOk s ∧ CtxOk s.nlimbs s.ctx ∧ s.err ≠ .entropyExhausted

/-! ### Frames -/

/-- Everything but the W registers `ws`, the B registers `bs`, the flags, the context, ERR and BUSY is as before. The
clause on CMDR rests on log entry 17, that on the held transaction on log entry 4, and those on the model's own fields on
log entries 2 and 3. -/
structure Frame (s t : State) (ws bs : List (Fin 8)) : Prop where
  w : ∀ r, r ∉ ws → getW t r = getW s r
  b : ∀ r, r ∉ bs → getB t r = getB s r
  nlimbs : t.nlimbs = s.nlimbs
  cmdr : t.cmdr = s.cmdr
  held : t.held = s.held
  host : t.host = s.host
  answers : t.answers = s.answers
  issues : t.issues = s.issues
  work : t.work = s.work

/-- A successful completion: ERR = 0 and BUSY = 0 (R17, R150). -/
def Completed (t : State) : Prop := t.err = .ok ∧ t.busy = false

/-- The two states hold the same W and B registers, flags and context (the state a command can read or write). -/
def SameRegisters (s t : State) : Prop :=
  t.nlimbs = s.nlimbs ∧ t.w = s.w ∧ t.b = s.b ∧ t.cf = s.cf ∧ t.ord = s.ord ∧ t.ctx = s.ctx

/-- The two states agree on everything the host can read through the port and on the capacity (R20 less CMDR). -/
def SameArchitecture (s t : State) : Prop :=
  SameRegisters s t ∧ t.busy = s.busy ∧ t.err = s.err

/-! ### What a command may write -/

/-- The commands that write CF (R26). -/
def writesCF : Instr → Bool
  | .adcw _ _ _ _ => true
  | .sbbw _ _ _ _ => true
  | .add _ _ _ => true
  | .sub _ _ _ => true
  | .zeroize => true
  | .mulw _ _ _ _ => false
  | .cmp _ _ => false
  | .mulf _ _ _ => false
  | .shl _ _ _ => false
  | .shr _ _ _ => false
  | .setmod _ => false
  | .tomont _ _ => false
  | .montmul _ _ _ => false
  | .frommont _ _ => false
  | .modexp _ _ _ => false
  | .rsat _ _ _ => false

/-- The commands that write ORD (R26). -/
def writesOrd : Instr → Bool
  | .cmp _ _ => true
  | .zeroize => true
  | .mulw _ _ _ _ => false
  | .adcw _ _ _ _ => false
  | .sbbw _ _ _ _ => false
  | .add _ _ _ => false
  | .sub _ _ _ => false
  | .mulf _ _ _ => false
  | .shl _ _ _ => false
  | .shr _ _ _ => false
  | .setmod _ => false
  | .tomont _ _ => false
  | .montmul _ _ _ => false
  | .frommont _ _ => false
  | .modexp _ _ _ => false
  | .rsat _ _ _ => false

/-- The commands that write the context slot (R27). -/
def writesCtx : Instr → Bool
  | .setmod _ => true
  | .zeroize => true
  | .mulw _ _ _ _ => false
  | .adcw _ _ _ _ => false
  | .sbbw _ _ _ _ => false
  | .add _ _ _ => false
  | .sub _ _ _ => false
  | .cmp _ _ => false
  | .mulf _ _ _ => false
  | .shl _ _ _ => false
  | .shr _ _ _ => false
  | .tomont _ _ => false
  | .montmul _ _ _ => false
  | .frommont _ _ => false
  | .modexp _ _ _ => false
  | .rsat _ _ _ => false

/-- The word registers a command writes (R21, R83 to R85, R145). -/
def wordDests : Instr → List (Fin 8)
  | .mulw rd rc _ _ => [rd, rc]
  | .adcw rd _ _ _ => [rd]
  | .sbbw rd _ _ _ => [rd]
  | .zeroize => [0, 1, 2, 3, 4, 5, 6, 7]
  | .add _ _ _ => []
  | .sub _ _ _ => []
  | .cmp _ _ => []
  | .mulf _ _ _ => []
  | .shl _ _ _ => []
  | .shr _ _ _ => []
  | .setmod _ => []
  | .tomont _ _ => []
  | .montmul _ _ _ => []
  | .frommont _ _ => []
  | .modexp _ _ _ => []
  | .rsat _ _ _ => []

/-- The BigUint registers a command writes (R22, R91 to R97, R116 to R118, R132, R133, R145). -/
def bigDests : Instr → List (Fin 8)
  | .add rd _ _ => [rd]
  | .sub rd _ _ => [rd]
  | .mulf rd _ _ => [rd, pairHigh rd]
  | .shl rd _ _ => [rd]
  | .shr rd _ _ => [rd]
  | .tomont rd _ => [rd]
  | .montmul rd _ _ => [rd]
  | .frommont rd _ => [rd]
  | .modexp rd _ _ => [rd]
  | .rsat rd _ _ => [rd]
  | .zeroize => [0, 1, 2, 3, 4, 5, 6, 7]
  | .mulw _ _ _ _ => []
  | .adcw _ _ _ _ => []
  | .sbbw _ _ _ _ => []
  | .cmp _ _ => []
  | .setmod _ => []

/-- The port words whose reading a completion of the command may change: its destinations, the words of the flags and
the context where it writes them, and STATUS. -/
def mayChange (i : Instr) (p : PortReg) : Bool :=
  match p with
  | .cmd => false
  | .status => true
  | .flags => writesCF i || writesOrd i
  | .cap => false
  | .ctxinfo => writesCtx i
  | .word r => (wordDests i).contains r
  | .limb r _ => (bigDests i).contains r
  | .ctxN _ => writesCtx i
  | .ctxNP _ => writesCtx i
  | .reserved => false

/-- The commands that need a context (R120). -/
def needsContext : Instr → Bool
  | .tomont _ _ => true
  | .montmul _ _ _ => true
  | .frommont _ _ => true
  | .modexp _ _ _ => true
  | .rsat _ _ _ => true
  | .mulw _ _ _ _ => false
  | .adcw _ _ _ _ => false
  | .sbbw _ _ _ _ => false
  | .add _ _ _ => false
  | .sub _ _ _ => false
  | .cmp _ _ => false
  | .mulf _ _ _ => false
  | .shl _ _ _ => false
  | .shr _ _ _ => false
  | .setmod _ => false
  | .zeroize => false

/-- The host sends no reset among these events. -/
def NoReset (es : List HostEvent) : Prop := HostEvent.reset ∉ es

end Sys2Proof.Machine
end

