-- ==== Sys2Proof/Certificates/Slice0/Obligations.lean ====
section
/-! DEFINITION. The statements for the provers, from the numbered rules of spec/. Every statement is about any capacity
L (`s.nlimbs`), not about the default one. `bit` reads a flag as 0 or 1, `val` an array of limbs as its integer. Where
a statement has a `Frame`, its clauses on `cmdr` rest on log entry 17, on `held` on log entry 4, and on `host`, `answers`,
`issues` and `work` on log entries 2 and 3: the model's choices, not sentences of the rules cited. -/

open Sys2Proof Sys2Proof.Machine

/-! ## Encoding (R60 to R70) -/

/-- Every well-formed command, encoded and written to CMD, decodes to itself, whatever its operands (R61, R65, R69). -/
def Obligations.DecodeOfEncodeIsIdentity : Prop :=
  ∀ i : Instr, wellFormed i = true → decode (cmdValue i) = .ok i

/-- A CMD value that decodes is the encoding of the command it decodes to, and that command is well-formed: no bit of
the 64-bit value is ignored and no two values spell one command (R65, R66). -/
def Obligations.DecodedValueIsTheEncoding : Prop :=
  ∀ (v : Word) (i : Instr), decode v = .ok i → cmdValue i = v ∧ wellFormed i = true

/-- "A 64-bit CMD value `v` spells a command exactly when `v[63:32] = 0`, `v[31:0]` matches one row and meets its
further condition." The rows are the match and mask columns of R65, and the command is the matched row's. -/
def Obligations.DecodesExactlyWhenARowMatches : Prop :=
  ∀ (v : Word) (op : Op),
    (∃ i, decode v = .ok i ∧ opOf i = op) ↔
      v.extractLsb' 32 32 = 0 ∧ matchesRow op (v.extractLsb' 0 32) = true

/-- Command words written out digit by digit from the encodings of 97 section 3.1 decode to the commands they stand
for, one or more of each family. A sanity statement. -/
def Obligations.SampleWordsDecode : Prop :=
  decode 0x01765400 = .ok (.mulw 7 4 6 5) ∧
  decode 0x02777002 = .ok (.adcw 7 7 7 .flag) ∧
  decode 0x03456002 = .ok (.sbbw 4 5 6 .flag) ∧
  decode 0x10012000 = .ok (.add 0 1 2) ∧
  decode 0x13677000 = .ok (.mulf 6 7 7) ∧
  decode 0x14560700 = .ok (.shl 5 6 7) ∧
  decode 0x20070000 = .ok (.setmod 7) ∧
  decode 0x22312000 = .ok (.montmul 3 1 2) ∧
  decode 0x31312000 = .ok (.rsat 3 1 2) ∧
  decode 0xF0000000 = .ok .zeroize

/-! ## The word unit (R80 to R88) -/

/-- The three word functions are exact over the integers (R80, R81, R82), sums and products commute, and subtracting
undoes adding with the same carry (R87). -/
def Obligations.WordFunctionsAreExact : Prop :=
  (∀ a b : Word,
    (wideMultiply a b).1.toNat = a.toNat * b.toNat / 2 ^ 64 ∧
    (wideMultiply a b).2.toNat = a.toNat * b.toNat % 2 ^ 64) ∧
  (∀ (a b : Word) (c : Bool),
    (addWithCarry a b c).1.toNat + 2 ^ 64 * bit (addWithCarry a b c).2 = a.toNat + b.toNat + bit c) ∧
  (∀ (a b : Word) (c : Bool),
    ((subWithBorrow a b c).1.toNat : Int) - 2 ^ 64 * bit (subWithBorrow a b c).2 = a.toNat - b.toNat - bit c) ∧
  (∀ (a b : Word) (c : Bool), addWithCarry a b c = addWithCarry b a c) ∧
  (∀ a b : Word, wideMultiply a b = wideMultiply b a) ∧
  (∀ (a b : Word) (c : Bool),
    subWithBorrow (addWithCarry a b c).1 b c = (a, (addWithCarry a b c).2))

/-- MULW completes with the exact 128-bit product of the old sources in its two destinations, high half in `rd`, low
half in `rc`; no flag, no other register and no context field changes (R80, R83). -/
def Obligations.MulwWritesTheProduct : Prop :=
  ∀ (s : State) (rd rc ra rb : WReg), rd ≠ rc →
    ∃ t, exec (.mulw rd rc ra rb) s = .next t ∧
      (getW t rd).toNat * 2 ^ 64 + (getW t rc).toNat = (getW s ra).toNat * (getW s rb).toNat ∧
      t.cf = s.cf ∧ t.ord = s.ord ∧ t.ctx = s.ctx ∧ Completed t ∧ Frame s t [rd, rc] []

/-- ADCW completes with sum and carry-out of the old sources and the selected carry-in, 0, 1 or the old CF (R63, R84). -/
def Obligations.AdcwAddsWithSelectedCarry : Prop :=
  ∀ (s : State) (rd ra rb : WReg) (c : CarrySel),
    ∃ t, exec (.adcw rd ra rb c) s = .next t ∧
      (getW t rd).toNat + 2 ^ 64 * bit t.cf = (getW s ra).toNat + (getW s rb).toNat +
        (match c with | .zero => 0 | .one => 1 | .flag => bit s.cf) ∧
      t.ord = s.ord ∧ t.ctx = s.ctx ∧ Completed t ∧ Frame s t [rd] []

/-- SBBW completes with difference and borrow-out, `ra` the minuend (R63, R85). -/
def Obligations.SbbwSubtractsWithSelectedBorrow : Prop :=
  ∀ (s : State) (rd ra rb : WReg) (c : CarrySel),
    ∃ t, exec (.sbbw rd ra rb c) s = .next t ∧
      ((getW t rd).toNat : Int) - 2 ^ 64 * bit t.cf = (getW s ra).toNat - (getW s rb).toNat -
        (match c with | .zero => 0 | .one => 1 | .flag => (bit s.cf : Int)) ∧
      t.ord = s.ord ∧ t.ctx = s.ctx ∧ Completed t ∧ Frame s t [rd] []

/-- Two ADCW, the second with the carry of the first, add 128-bit values; two SBBW subtract them (R88). The first
destination must not be a source of the second command, nor its destination. -/
def Obligations.WordChainsAre128Bit : Prop :=
  ∀ (s : State) (lo hi alo ahi blo bhi : WReg), lo ≠ ahi → lo ≠ bhi → lo ≠ hi →
    (∃ t u, exec (.adcw lo alo blo .zero) s = .next t ∧ exec (.adcw hi ahi bhi .flag) t = .next u ∧
      (getW u lo).toNat + 2 ^ 64 * (getW u hi).toNat + 2 ^ 128 * bit u.cf =
        ((getW s alo).toNat + 2 ^ 64 * (getW s ahi).toNat) + ((getW s blo).toNat + 2 ^ 64 * (getW s bhi).toNat)) ∧
    (∃ t u, exec (.sbbw lo alo blo .zero) s = .next t ∧ exec (.sbbw hi ahi bhi .flag) t = .next u ∧
      ((getW u lo).toNat : Int) + 2 ^ 64 * (getW u hi).toNat - 2 ^ 128 * bit u.cf =
        ((getW s alo).toNat + 2 ^ 64 * (getW s ahi).toNat) - ((getW s blo).toNat + 2 ^ 64 * (getW s bhi).toNat))

/-! ## BigUint operations (R90 to R99) -/

/-- ADD completes with the sum modulo 2^(64L) in `rd`, and CF exactly when the true sum exceeds the capacity (R91). -/
def Obligations.AddWritesWrappedSum : Prop :=
  ∀ (s : State) (rd ra rb : BReg),
    ∃ t, exec (.add rd ra rb) s = .next t ∧
      valB t rd = (valB s ra + valB s rb) % 2 ^ (64 * s.nlimbs) ∧ (getB t rd).length = s.nlimbs ∧
      (t.cf = true ↔ 2 ^ (64 * s.nlimbs) ≤ valB s ra + valB s rb) ∧
      t.ord = s.ord ∧ t.ctx = s.ctx ∧ Completed t ∧ Frame s t [] [rd]

/-- SUB completes with the difference modulo 2^(64L) in `rd`, and CF exactly when the minuend is the smaller (R92). -/
def Obligations.SubWritesWrappedDifference : Prop :=
  ∀ (s : State) (rd ra rb : BReg), BanksOk s →
    ∃ t, exec (.sub rd ra rb) s = .next t ∧
      ((valB t rd : Int) = (valB s ra - valB s rb) % 2 ^ (64 * s.nlimbs)) ∧ (getB t rd).length = s.nlimbs ∧
      (t.cf = true ↔ valB s ra < valB s rb) ∧
      t.ord = s.ord ∧ t.ctx = s.ctx ∧ Completed t ∧ Frame s t [] [rd]

/-- CMP completes with ORD telling Ba from Bb as unsigned integers, and writes no register (R93). -/
def Obligations.CmpWritesTheOrder : Prop :=
  ∀ (s : State) (ra rb : BReg),
    ∃ t, exec (.cmp ra rb) s = .next t ∧
      (t.ord = .equal ↔ valB s ra = valB s rb) ∧ (t.ord = .less ↔ valB s ra < valB s rb) ∧
      (t.ord = .greater ↔ valB s rb < valB s ra) ∧
      t.cf = s.cf ∧ t.ctx = s.ctx ∧ Completed t ∧ Frame s t [] []

/-- MULF completes with the low half of the exact product in `B[rd]` and the high half in `B[rd+1]` (R94). -/
def Obligations.MulfWritesBothHalves : Prop :=
  ∀ (s : State) (rd ra rb : BReg), wellFormed (.mulf rd ra rb) = true → BanksOk s →
    ∃ t, exec (.mulf rd ra rb) s = .next t ∧
      valB t rd = valB s ra * valB s rb % 2 ^ (64 * s.nlimbs) ∧
      valB t (rd + 1) = valB s ra * valB s rb / 2 ^ (64 * s.nlimbs) ∧
      t.cf = s.cf ∧ t.ord = s.ord ∧ t.ctx = s.ctx ∧ Completed t ∧ Frame s t [] [rd, rd + 1]

/-- SHL completes with the left shift within the width; every count at or above 64 L gives 0 (R96). -/
def Obligations.ShlShiftsWithinTheWidth : Prop :=
  ∀ (s : State) (rd ra : BReg) (rc : WReg),
    ∃ t, exec (.shl rd ra rc) s = .next t ∧
      (64 * s.nlimbs ≤ (getW s rc).toNat → valB t rd = 0) ∧
      ((getW s rc).toNat < 64 * s.nlimbs →
        valB t rd = valB s ra * 2 ^ (getW s rc).toNat % 2 ^ (64 * s.nlimbs)) ∧
      t.cf = s.cf ∧ t.ord = s.ord ∧ t.ctx = s.ctx ∧ Completed t ∧ Frame s t [] [rd]

/-- SHR completes with the logical right shift; every count at or above 64 L gives 0 (R97). -/
def Obligations.ShrShiftsLogically : Prop :=
  ∀ (s : State) (rd ra : BReg) (rc : WReg), BanksOk s →
    ∃ t, exec (.shr rd ra rc) s = .next t ∧
      (64 * s.nlimbs ≤ (getW s rc).toNat → valB t rd = 0) ∧
      ((getW s rc).toNat < 64 * s.nlimbs → valB t rd = valB s ra / 2 ^ (getW s rc).toNat) ∧
      t.cf = s.cf ∧ t.ord = s.ord ∧ t.ctx = s.ctx ∧ Completed t ∧ Frame s t [] [rd]

/-- The ripple chains of R98 equal the integer definitions, and the most-significant-limb-first comparison of R93 orders
arrays as their integers, for arrays of any one length. -/
def Obligations.RippleAndCompareEqualTheIntegers : Prop :=
  ∀ as bs : List Word, as.length = bs.length →
    rippleAdd as bs false =
      (limbs as.length ((val as + val bs) % 2 ^ (64 * as.length)),
        decide (2 ^ (64 * as.length) ≤ val as + val bs)) ∧
    rippleSub as bs false =
      (limbs as.length (((val as : Int) - val bs) % 2 ^ (64 * as.length)).toNat, decide (val as < val bs)) ∧
    (compareLimbs as bs = .equal ↔ val as = val bs) ∧
    (compareLimbs as bs = .less ↔ val as < val bs) ∧
    (compareLimbs as bs = .greater ↔ val bs < val as)

/-- Schoolbook multiplication (R95) gives the product, in as many limbs as both operands have. -/
def Obligations.SchoolbookGivesTheProduct : Prop :=
  ∀ as bs : List Word, as.length = bs.length →
    val (schoolbook as bs) = val as * val bs ∧ (schoolbook as bs).length = as.length + bs.length

/-- The limb forms of the shifts (R96, R97) give limb j of the value the commands write. -/
def Obligations.LimbShiftsEqualTheIntegers : Prop :=
  ∀ (a : List Word) (s j : Nat), s < 64 * a.length → j < a.length →
    (limbs a.length (val a * 2 ^ s % 2 ^ (64 * a.length))).getD j 0 = shlLimb a s j ∧
    (limbs a.length (val a / 2 ^ s)).getD j 0 = shrLimb a s j

/-- ADD then SUB of the same register gives the first operand back, also when the sum overflowed, and leaves the CF
that ADD left; and SUB leaves CF exactly when CMP would leave Less (R99). -/
def Obligations.SubUndoesAdd : Prop :=
  ∀ (s : State) (r0 r1 r2 r3 : BReg), BanksOk s → r1 ≠ r2 →
    (∃ t u, exec (.add r2 r0 r1) s = .next t ∧ exec (.sub r3 r2 r1) t = .next u ∧
      getB u r3 = getB s r0 ∧ u.cf = t.cf) ∧
    (∃ t u, exec (.sub r2 r0 r1) s = .next t ∧ exec (.cmp r0 r1) s = .next u ∧
      (t.cf = true ↔ u.ord = .less)) ∧
    exec (.add r2 r0 r1) s = exec (.add r2 r1 r0) s

/-! ## Montgomery engine (R110 to R121) -/

/-- n of R111 is the smallest limb count whose R exceeds the modulus, and R is at most 2^64 times the modulus. -/
def Obligations.MontgomeryConstantIsSmallest : Prop :=
  ∀ N : Nat, 0 < N →
    limbCount N = (bitlen N + 63) / 64 ∧ 1 ≤ limbCount N ∧ N < 2 ^ (64 * limbCount N) ∧
    2 ^ (64 * limbCount N) ≤ 2 ^ 64 * N ∧ (∀ m, N < 2 ^ (64 * m) → limbCount N ≤ m)

/-- N′ of R112: with inv the one inverse of an odd N modulo R, N′ = R - inv; N′ is odd and the only value below R with
N N′ ≡ −1 (mod R). -/
def Obligations.NPrimeIsTheNegatedInverse : Prop :=
  ∀ N n : Nat, N % 2 = 1 → 1 ≤ n →
    (∃ inv, (1 ≤ inv ∧ inv < 2 ^ (64 * n) ∧ N * inv % 2 ^ (64 * n) = 1) ∧
      (∀ x, 1 ≤ x → x < 2 ^ (64 * n) → N * x % 2 ^ (64 * n) = 1 → x = inv) ∧
      nPrimeOf N n = 2 ^ (64 * n) - inv) ∧
    nPrimeOf N n % 2 = 1 ∧ nPrimeOf N n < 2 ^ (64 * n) ∧
    N * nPrimeOf N n % 2 ^ (64 * n) = 2 ^ (64 * n) - 1 ∧
    (∀ x, x < 2 ^ (64 * n) → N * x % 2 ^ (64 * n) = 2 ^ (64 * n) - 1 → x = nPrimeOf N n)

/-- "For every valid context and all a, b below N, MontMul(a, b) = (a * b * Rinv) mod N" (R115). -/
def Obligations.MontMulIsTheModularProduct : Prop :=
  ∀ N Np n a b Rinv : Nat, 2 ^ (64 * n) - 1 = N * Np % 2 ^ (64 * n) → N < 2 ^ (64 * n) → a < N → b < N →
    Rinv < N → 2 ^ (64 * n) * Rinv % N = 1 % N →
    montMul N Np n a b = a * b * Rinv % N ∧ montMul N Np n a b < N

/-- SETMOD of an odd modulus builds the context: VALID, N, the limb count of R111 and N′ of R112; no W or B register
and no flag changes (R113). -/
def Obligations.SetmodBuildsTheContext : Prop :=
  ∀ (s : State) (ra : BReg), BanksOk s → valB s ra % 2 = 1 →
    ∃ t, exec (.setmod ra) s = .next t ∧
      t.ctx.valid = true ∧ val t.ctx.n = valB s ra ∧ t.ctx.rl = (bitlen (valB s ra) + 63) / 64 ∧
      val t.ctx.np < 2 ^ (64 * t.ctx.rl) ∧
      valB s ra * val t.ctx.np % 2 ^ (64 * t.ctx.rl) = 2 ^ (64 * t.ctx.rl) - 1 ∧
      t.ctx.n.length = s.nlimbs ∧ t.ctx.np.length = s.nlimbs ∧
      t.cf = s.cf ∧ t.ord = s.ord ∧ Completed t ∧ Frame s t [] []

/-- SETMOD of an even modulus, zero included, completes with NonInvertible and changes nothing else: a context that
was valid stays as it was (R113). -/
def Obligations.SetmodRefusesEvenModuli : Prop :=
  ∀ (s : State) (ra : BReg), valB s ra % 2 = 0 →
    exec (.setmod ra) s = .next { s with err := .nonInvertible, busy := false }

/-- TOMONT completes with x R mod N, for every x (R116). -/
def Obligations.TomontConvertsIn : Prop :=
  ∀ (s : State) (rd ra : BReg), Inv s → s.ctx.valid = true →
    ∃ t, exec (.tomont rd ra) s = .next t ∧
      valB t rd = valB s ra * 2 ^ (64 * s.ctx.rl) % val s.ctx.n ∧ valB t rd < val s.ctx.n ∧
      t.cf = s.cf ∧ t.ord = s.ord ∧ t.ctx = s.ctx ∧ Completed t ∧ Frame s t [] [rd]

/-- MONTMUL of operands below N completes with a b Rinv mod N (R117). -/
def Obligations.MontmulMultiplies : Prop :=
  ∀ (s : State) (rd ra rb : BReg), Inv s → s.ctx.valid = true →
    valB s ra < val s.ctx.n → valB s rb < val s.ctx.n →
    ∃ t Rinv, exec (.montmul rd ra rb) s = .next t ∧
      Rinv < val s.ctx.n ∧ 2 ^ (64 * s.ctx.rl) * Rinv % val s.ctx.n = 1 % val s.ctx.n ∧
      valB t rd = valB s ra * valB s rb * Rinv % val s.ctx.n ∧
      t.cf = s.cf ∧ t.ord = s.ord ∧ t.ctx = s.ctx ∧ Completed t ∧ Frame s t [] [rd]

/-- FROMMONT of x below N completes with x Rinv mod N (R118). -/
def Obligations.FrommontConvertsOut : Prop :=
  ∀ (s : State) (rd ra : BReg), Inv s → s.ctx.valid = true → valB s ra < val s.ctx.n →
    ∃ t Rinv, exec (.frommont rd ra) s = .next t ∧
      Rinv < val s.ctx.n ∧ 2 ^ (64 * s.ctx.rl) * Rinv % val s.ctx.n = 1 % val s.ctx.n ∧
      valB t rd = valB s ra * Rinv % val s.ctx.n ∧
      t.cf = s.cf ∧ t.ord = s.ord ∧ t.ctx = s.ctx ∧ Completed t ∧ Frame s t [] [rd]

/-- MONTMUL, FROMMONT and RSAT with a value at or above N complete with ValueOutOfRange and change nothing else
(R117, R118, R133). -/
def Obligations.OutOfRangeOperandsAreRefused : Prop :=
  ∀ (s : State) (rd ra rb : BReg), s.ctx.valid = true →
    (val s.ctx.n ≤ valB s ra ∨ val s.ctx.n ≤ valB s rb →
      exec (.montmul rd ra rb) s = .next { s with err := .valueOutOfRange, busy := false }) ∧
    (val s.ctx.n ≤ valB s ra →
      exec (.frommont rd ra) s = .next { s with err := .valueOutOfRange, busy := false } ∧
      exec (.rsat rd ra rb) s = .next { s with err := .valueOutOfRange, busy := false })

/-- Without a context TOMONT, MONTMUL, FROMMONT, MODEXP and RSAT complete with InvalidOperand and change nothing,
whatever their operands hold: the check comes before any check on values (R120, R155). -/
def Obligations.MissingContextIsReported : Prop :=
  ∀ (s : State) (rd ra rb : BReg), s.ctx.valid = false →
    exec (.tomont rd ra) s = .next { s with err := .invalidOperand, busy := false } ∧
    exec (.montmul rd ra rb) s = .next { s with err := .invalidOperand, busy := false } ∧
    exec (.frommont rd ra) s = .next { s with err := .invalidOperand, busy := false } ∧
    exec (.modexp rd ra rb) s = .next { s with err := .invalidOperand, busy := false } ∧
    exec (.rsat rd ra rb) s = .next { s with err := .invalidOperand, busy := false }

/-- The Montgomery round trip of R121: into the form, multiply, out of the form gives a b mod N, without error, for
every a and b; and converting in and out gives x mod N. -/
def Obligations.MontgomeryRoundTrip : Prop :=
  ∀ (s : State) (r0 r1 r2 r3 r4 r5 : BReg), Inv s → s.ctx.valid = true → r1 ≠ r2 → r2 ≠ r3 →
    (∃ t1 t2 t3 t4, exec (.tomont r2 r0) s = .next t1 ∧ exec (.tomont r3 r1) t1 = .next t2 ∧
      exec (.montmul r4 r2 r3) t2 = .next t3 ∧ exec (.frommont r5 r4) t3 = .next t4 ∧
      t1.err = .ok ∧ t2.err = .ok ∧ t3.err = .ok ∧ t4.err = .ok ∧
      valB t3 r4 = valB s r0 * valB s r1 * 2 ^ (64 * s.ctx.rl) % val s.ctx.n ∧
      valB t4 r5 = valB s r0 * valB s r1 % val s.ctx.n) ∧
    (∃ t1 t2, exec (.tomont r2 r0) s = .next t1 ∧ exec (.frommont r3 r2) t1 = .next t2 ∧
      valB t2 r3 = valB s r0 % val s.ctx.n)

/-! ## Exponentiation (R130 to R137) -/

/-- The model's exponentiation is b^e mod N, the base being any value (R130). -/
def Obligations.ModExpIsThePowerModN : Prop :=
  ∀ b e N : Nat, modExp b e N = b ^ e % N ∧ modExp b e N = modExp (b % N) e N

/-- MODEXP completes with b^e mod N for every base and exponent (R132). -/
def Obligations.ModexpComputesThePower : Prop :=
  ∀ (s : State) (rd ra rb : BReg), Inv s → s.ctx.valid = true →
    ∃ t, exec (.modexp rd ra rb) s = .next t ∧
      valB t rd = valB s ra ^ valB s rb % val s.ctx.n ∧ valB t rd < val s.ctx.n ∧
      t.cf = s.cf ∧ t.ord = s.ord ∧ t.ctx = s.ctx ∧ Completed t ∧ Frame s t [] [rd]

/-- RSAT of a message below N completes with m^e mod N (R133). -/
def Obligations.RsatComputesThePower : Prop :=
  ∀ (s : State) (rd ra rb : BReg), Inv s → s.ctx.valid = true → valB s ra < val s.ctx.n →
    ∃ t, exec (.rsat rd ra rb) s = .next t ∧
      valB t rd = valB s ra ^ valB s rb % val s.ctx.n ∧
      t.cf = s.cf ∧ t.ord = s.ord ∧ t.ctx = s.ctx ∧ Completed t ∧ Frame s t [] [rd]

/-- The edge cases of R134: modulus 1 gives 0 for every base and exponent; otherwise exponent 0 gives 1. -/
def Obligations.ModexpEdgeCases : Prop :=
  ∀ (s : State) (rd ra rb : BReg), Inv s → s.ctx.valid = true →
    ∃ t, exec (.modexp rd ra rb) s = .next t ∧
      (val s.ctx.n = 1 → valB t rd = 0) ∧
      (val s.ctx.n ≠ 1 → valB s rb = 0 → valB t rd = 1) ∧
      (valB s ra % val s.ctx.n = 0 → 1 ≤ valB s rb → valB t rd = 0) ∧
      (valB s rb = 1 → valB t rd = valB s ra % val s.ctx.n) ∧
      (valB s ra = 1 → valB t rd = 1 % val s.ctx.n)

/-- "ModExpAlg(b, e) = ModExp(b, e, N) for every valid context and all b, e": the engine's Montgomery schedule of R131
over all 64 L exponent bits gives the value the model writes (R136). -/
def Obligations.EngineScheduleGivesThePower : Prop :=
  ∀ L N Np n b e : Nat, 2 ^ (64 * n) - 1 = N * Np % 2 ^ (64 * n) → 0 < N → N < 2 ^ (64 * n) → e < 2 ^ (64 * L) →
    modExpAlg L N Np n b e = modExp b e N

/-- The RSA round trip of R137: for N = p q with p, q distinct odd primes and e d ≡ 1 mod lcm(p-1, q-1), two RSAT
commands give the message back, without error. -/
def Obligations.RsaRoundTrip : Prop :=
  ∀ (s : State) (r0 re rd r2 r3 : BReg) (p q : Nat), Inv s → s.ctx.valid = true →
    p.Prime → q.Prime → p ≠ q → p % 2 = 1 → q % 2 = 1 → val s.ctx.n = p * q →
    valB s re * valB s rd % Nat.lcm (p - 1) (q - 1) = 1 % Nat.lcm (p - 1) (q - 1) →
    valB s r0 < val s.ctx.n → rd ≠ r2 →
    ∃ t u, exec (.rsat r2 r0 re) s = .next t ∧ exec (.rsat r3 r2 rd) t = .next u ∧
      t.err = .ok ∧ u.err = .ok ∧ valB u r3 = valB s r0

/-! ## System command and whole-machine rules -/

/-- ZEROIZE leaves every W and B register, both flags and the context as reset does, with ERR = 0 and BUSY = 0 (R145,
R35). The other clauses are the model's, not R145's: CMDR, which cannot be observed, keeps its word (log entry 17), the
held transaction stays held (log entry 4), and the events, the answers and the engine's counters stay as they are (log
entries 2 and 3). -/
def Obligations.ZeroizeClearsEverything : Prop :=
  ∀ s : State, ∃ t, exec .zeroize s = .next t ∧
    SameArchitecture (State.resetOf s.nlimbs) t ∧ (∀ r, getW t r = 0) ∧ (∀ r, valB t r = 0) ∧
    Frame s t [0, 1, 2, 3, 4, 5, 6, 7] [0, 1, 2, 3, 4, 5, 6, 7]

/-- A command that ends in an error changes ERR and BUSY and nothing else (R156). -/
def Obligations.ErrorsChangeNothingElse : Prop :=
  ∀ (i : Instr) (s t : State), exec i s = .next t → t.err ≠ .ok →
    t = { s with err := t.err, busy := false }

/-- Which command can raise what, after decoding (R161), and that code 3 is never produced (R153). -/
def Obligations.WhichCommandRaisesWhat : Prop :=
  ∀ (i : Instr) (s t : State), exec i s = .next t →
    (t.err = .invalidOperand ↔ needsContext i = true ∧ s.ctx.valid = false) ∧
    (t.err = .nonInvertible ↔ ∃ ra, i = .setmod ra ∧ valB s ra % 2 = 0) ∧
    (t.err = .valueOutOfRange ↔ s.ctx.valid = true ∧
      ((∃ rd ra rb, i = .montmul rd ra rb ∧ (val s.ctx.n ≤ valB s ra ∨ val s.ctx.n ≤ valB s rb)) ∨
       (∃ rd ra, i = .frommont rd ra ∧ val s.ctx.n ≤ valB s ra) ∨
       (∃ rd ra rb, i = .rsat rd ra rb ∧ val s.ctx.n ≤ valB s ra))) ∧
    t.err ≠ .entropyExhausted ∧ t.busy = false

/-- The writers of the flags and of the context slot, complete: the table of R26 and the last sentence of R27. -/
def Obligations.OnlyNamedCommandsWriteFlags : Prop :=
  ∀ (i : Instr) (s t : State), exec i s = .next t →
    (writesCF i = false ∨ t.err ≠ .ok → t.cf = s.cf) ∧
    (writesOrd i = false ∨ t.err ≠ .ok → t.ord = s.ord) ∧
    (writesCtx i = false ∨ t.err ≠ .ok → t.ctx = s.ctx)

/-- "A command writes only its named destination(s) and the flags" its rule lists (R90): the frame of every command. -/
def Obligations.CommandsWriteOnlyDestinations : Prop :=
  ∀ (i : Instr) (s t : State), exec i s = .next t → Frame s t (wordDests i) (bigDests i)

/-- The frame of every command over the whole address space: a port word that is not a destination of the command, not
STATUS, not FLAGS where the command writes a flag and not a context word where it writes the slot, reads after the
completion as it read before (R26, R42, R90). -/
def Obligations.OtherPortWordsKeepTheirValue : Prop :=
  ∀ (i : Instr) (s t : State) (a : Addr), exec i s = .next t →
    mayChange i (portReg s.nlimbs a) = false → portRead t a = portRead s a

/-! ## Invariants and steps -/

/-- The invariant holds after reset, for every capacity the architecture allows (R10, R28, R35); `State.reset` has the
capacity that is the model's choice (log entry 1). -/
def Obligations.ResetMeetsTheInvariant : Prop :=
  Inv State.reset ∧ ∀ L, 1 ≤ L → L ≤ 256 → Inv (State.resetOf L)

/-- Every step keeps the invariant: L limbs in every register (R22), the context invariant (R28), ERR never the
reserved code (R153), the capacity in its range (R10); and the capacity is fixed for the life of the block (R36). -/
def Obligations.StepKeepsTheInvariant : Prop :=
  ∀ s t : State, Inv s → step s = .next t → Inv t ∧ t.nlimbs = s.nlimbs

/-- No stuck state, no hang, no fault: every state has a successor (R166). Which agent moves next is plain data of the
model (log entries 2 and 3). -/
def Obligations.EveryStateHasASuccessor : Prop :=
  ∀ s : State, ∃ t, step s = .next t

/-- When the engine completes, the step is the effect of the decoded command (R150, step 3). The engine completes when
BUSY = 1 and the latency the model drew at issue is used up, `work = 0` (the model's choice, log entry 3); nothing is
added around the effect, for there is no program counter (R33). -/
def Obligations.StepRunsTheDecodedCommand : Prop :=
  ∀ (s : State) (i : Instr), s.busy = true → s.work = 0 → decode s.cmdr = .ok i → step s = exec i s

/-- A CMD value that spells no command completes with InvalidOperand and no other change (R66); the completion comes
when `work = 0` (the model's choice, log entry 3). -/
def Obligations.IllegalValuesCompleteWithInvalidOperand : Prop :=
  ∀ s : State, s.busy = true → s.work = 0 → (∀ i, decode s.cmdr ≠ .ok i) →
    step s = .next { s with err := .invalidOperand, busy := false }

/-- Issue: a write of CMD with BUSY = 0 latches the value and raises BUSY; no register, flag or context field and not
ERR changes (R47, R150 step 1). That a write is acknowledged is R41; that the acknowledgement of a write of CMD comes at
its issue and not at the completion is the model's (log entry 16), and so are the lists of events and answers (log
entry 2). -/
def Obligations.WriteOfCmdIssues : Prop :=
  ∀ (s : State) (v : Word) (es : List HostEvent), s.busy = false → s.held = none →
    s.host = .txn (.write 0x0000 v) :: es →
    ∃ t, step s = .next t ∧ t.cmdr = v ∧ t.busy = true ∧ SameRegisters s t ∧ t.err = s.err ∧
      t.answers = s.answers ++ [.ack] ∧ t.host = es ∧ t.held = none

/-- While a command runs no architectural state changes: until the completion, and while no reset comes, a step leaves
every register, flag, context field, ERR, BUSY and CMDR as they are (R150 step 2). `work ≠ 0` says that the completion
has not come (the model's choice, log entry 3). -/
def Obligations.NothingChangesWhileBusy : Prop :=
  ∀ s : State, s.busy = true → s.work ≠ 0 → s.host.head? ≠ some .reset →
    ∃ t, step s = .next t ∧ SameArchitecture s t ∧ t.cmdr = s.cmdr

/-- While BUSY = 1 a read of STATUS is answered at once with BUSY = 1 and CTXV and ERR as they were; every other
transaction is held, unanswered and without effect; while one is held it stays held and nothing else is taken from the
host or answered; and with BUSY = 0 the held transaction, read or write, to any address, is performed against the state
the completion left (R49). That it comes before any other event, a reset included, is log entry 4; `host`, `answers` and
`work` are the model's own (log entries 2 and 3). -/
def Obligations.BusyPortHoldsTransactions : Prop :=
  (∀ (s : State) (es : List HostEvent), s.busy = true → s.work ≠ 0 → s.held = none →
    s.host = .txn (.read 0x0001) :: es →
    ∃ t v, step s = .next t ∧ SameArchitecture s t ∧ t.held = none ∧ t.host = es ∧
      t.answers = s.answers ++ [.data v] ∧ v.getLsbD 0 = true ∧ v.getLsbD 1 = s.ctx.valid ∧
      (v.extractLsb' 8 4).toNat = errCode s.err) ∧
  (∀ (s : State) (tx : Txn) (es : List HostEvent), s.busy = true → s.work ≠ 0 → s.held = none →
    tx ≠ .read 0x0001 → s.host = .txn tx :: es →
    ∃ t, step s = .next t ∧ SameArchitecture s t ∧ t.held = some tx ∧ t.host = es ∧ t.answers = s.answers) ∧
  (∀ (s : State) (tx : Txn), s.busy = true → s.work ≠ 0 → s.held = some tx → s.host.head? ≠ some .reset →
    ∃ t, step s = .next t ∧ SameArchitecture s t ∧ t.held = some tx ∧ t.host = s.host ∧ t.answers = s.answers) ∧
  (∀ (s : State) (tx : Txn), s.busy = false → s.held = some tx →
    step s = .next (perform { s with held := none } tx))

/-- Reset, in an idle block or before the completion of a running command: every state element takes its reset value, a
running command leaves no result and no error, and a held transaction is dropped unanswered (R176). The event of reset
and its moment are the model's (log entry 5). -/
def Obligations.ResetClearsTheBlock : Prop :=
  ∀ (s : State) (es : List HostEvent), s.host = .reset :: es →
    (s.busy = true ∧ s.work ≠ 0) ∨ (s.busy = false ∧ s.held = none) →
    ∃ t, step s = .next t ∧ SameArchitecture (State.resetOf s.nlimbs) t ∧ t.cmdr = 0 ∧ t.held = none ∧
      t.host = es ∧ t.answers = s.answers

/-- The idle block does nothing on its own (R178): with no event left from outside (the model's list, log entry 2) a
step leaves the state as it is. -/
def Obligations.IdleBlockWaits : Prop :=
  ∀ s : State, s.busy = false → s.held = none → s.host = [] → step s = .next s

/-- Completion always comes: from any state with BUSY = 1, if no reset is sent, BUSY is 0 after as many steps as the
engine's latency says and one more (R150, R190). The latency is a free value of the model (log entry 3); the statement
holds for every value of it. -/
def Obligations.CompletionAlwaysComes : Prop :=
  ∀ s : State, s.busy = true → NoReset s.host →
    ∃ t, Host.Core.run Sys2Proof.core (s.work + 1) s = .next t ∧ t.busy = false

/-- A command is one atomic step to the host (R150, R52): if the host writes CMD to an idle block and sends anything but
reset after it, then after finitely many steps the registers, flags, context, ERR and BUSY are exactly what the
command's meaning gives on the state at issue; for a value that spells no command, only ERR differs. It holds for every
value of the engine's free latency (log entry 3) and every list of events (log entry 2). -/
def Obligations.CommandsAreAtomic : Prop :=
  ∀ (s : State) (v : Word) (es : List HostEvent), s.busy = false → s.held = none →
    s.host = .txn (.write 0x0000 v) :: es → NoReset es →
    ∃ k t, Host.Core.run Sys2Proof.core k s = .next t ∧
      (∀ i, decode v = .ok i → ∃ u, exec i s = .next u ∧ SameArchitecture u t) ∧
      ((∀ i, decode v ≠ .ok i) → SameRegisters s t ∧ t.err = .invalidOperand ∧ t.busy = false)

/-! ## The port (R26, R29 to R31, R42 to R48) -/

/-- The address map of the readable registers: W[i] at 0x0010 + i, limb j of B[r] at 0x1000 + 0x100 r + j, the limbs of
CTX.N at 0x2000 + j and of CTX.NP at 0x2100 + j (R42, R43, R44). -/
def Obligations.PortReadsRegisters : Prop :=
  ∀ (s : State) (i : Fin 8) (j : Nat), j < s.nlimbs → s.nlimbs ≤ 256 →
    portRead s (BitVec.ofNat 16 (0x0010 + i.val)) = getW s i ∧
    portRead s (BitVec.ofNat 16 (0x1000 + 0x100 * i.val + j)) = (getB s i).getD j 0 ∧
    portRead s (BitVec.ofNat 16 (0x2000 + j)) = s.ctx.n.getD j 0 ∧
    portRead s (BitVec.ofNat 16 (0x2100 + j)) = s.ctx.np.getD j 0

/-- A write to W[i] replaces that register; a write to a limb window replaces that one limb and leaves the other limbs;
nothing else changes (R43, R47). -/
def Obligations.PortWritesReplaceOneWord : Prop :=
  ∀ (s t : State) (i : Fin 8) (j : Nat) (v : Word), BanksOk s → j < s.nlimbs → s.nlimbs ≤ 256 →
    (portWrite s (BitVec.ofNat 16 (0x0010 + i.val)) v = t →
      getW t i = v ∧ Frame s t [i] [] ∧
      t.cf = s.cf ∧ t.ord = s.ord ∧ t.ctx = s.ctx ∧ t.busy = s.busy ∧ t.err = s.err) ∧
    (portWrite s (BitVec.ofNat 16 (0x1000 + 0x100 * i.val + j)) v = t →
      (getB t i).getD j 0 = v ∧ (∀ k, k ≠ j → (getB t i).getD k 0 = (getB s i).getD k 0) ∧
      (getB t i).length = s.nlimbs ∧ Frame s t [] [i] ∧
      t.cf = s.cf ∧ t.ord = s.ord ∧ t.ctx = s.ctx ∧ t.busy = s.busy ∧ t.err = s.err)

/-- Reserved addresses read 0; a write to a reserved or read-only address changes nothing; CMD reads 0 (R42, R47, R48). -/
def Obligations.ReservedAndReadOnlyAddresses : Prop :=
  ∀ (s : State) (a : Addr) (v : Word),
    ((0x0005 ≤ a.toNat ∧ a.toNat ≤ 0x000F) ∨ (0x0018 ≤ a.toNat ∧ a.toNat ≤ 0x0FFF) ∨
      (0x1000 ≤ a.toNat ∧ a.toNat ≤ 0x17FF ∧ s.nlimbs ≤ a.toNat % 256) ∨
      (0x1800 ≤ a.toNat ∧ a.toNat ≤ 0x1FFF) ∨
      (0x2000 ≤ a.toNat ∧ a.toNat ≤ 0x21FF ∧ s.nlimbs ≤ a.toNat % 256) ∨ 0x2200 ≤ a.toNat →
      portRead s a = 0 ∧ portWrite s a v = s) ∧
    ((0x0001 ≤ a.toNat ∧ a.toNat ≤ 0x0004) ∨ (0x2000 ≤ a.toNat ∧ a.toNat ≤ 0x21FF) → portWrite s a v = s) ∧
    portRead s 0x0000 = 0

/-- The fields of STATUS (R29), FLAGS (R26), CAP (R30) and CTXINFO (R31), at their addresses: every bit not named
reads 0. CAP gives the capacity and the constants of the architecture in every state. -/
def Obligations.ReadOnlyWordFields : Prop :=
  ∀ s : State,
    (portRead s 0x0001).getLsbD 0 = s.busy ∧ (portRead s 0x0001).getLsbD 1 = s.ctx.valid ∧
    (portRead s 0x0001).extractLsb' 2 6 = 0 ∧
    (portRead s 0x0001).extractLsb' 8 4 =
      (match s.err with
        | .ok => 0 | .invalidOperand => 1 | .valueOutOfRange => 2 | .entropyExhausted => 3 | .nonInvertible => 4) ∧
    (portRead s 0x0001).extractLsb' 12 52 = 0 ∧
    (portRead s 0x0002).getLsbD 0 = s.cf ∧
    (portRead s 0x0002).extractLsb' 1 2 = (match s.ord with | .equal => 0 | .less => 1 | .greater => 2) ∧
    (portRead s 0x0002).extractLsb' 3 61 = 0 ∧
    (1 ≤ s.nlimbs → s.nlimbs ≤ 256 → ((portRead s 0x0003).extractLsb' 0 16).toNat = s.nlimbs) ∧
    (portRead s 0x0003).extractLsb' 16 4 = 8 ∧ (portRead s 0x0003).extractLsb' 20 4 = 8 ∧
    (portRead s 0x0003).extractLsb' 24 8 = 1 ∧ (portRead s 0x0003).extractLsb' 32 32 = 0 ∧
    (portRead s 0x0004).getLsbD 0 = s.ctx.valid ∧
    (s.ctx.rl ≤ 256 → ((portRead s 0x0004).extractLsb' 16 9).toNat = s.ctx.rl) ∧
    (portRead s 0x0004).extractLsb' 1 15 = 0 ∧ (portRead s 0x0004).extractLsb' 25 39 = 0

/-- After reset every port word reads 0 but CAP, which gives L, NB = 8, NW = 8 and VER = 1 (R30, R35). -/
def Obligations.ReadsAfterReset : Prop :=
  ∀ (L : Nat) (a : Addr), 1 ≤ L → L ≤ 256 →
    portRead (State.resetOf L) a =
      if a = 0x0003 then BitVec.ofNat 64 (L + 8 * 2 ^ 16 + 8 * 2 ^ 20 + 2 ^ 24) else 0

/-- The idle port takes the next transaction from the host and performs it, whatever its address; performing a read
answers it with the word read and changes nothing else, and performing a write has the effect of the write and
acknowledges it (R41, R47, R166). When the next transaction comes, and the lists of events and answers, are the model's
(log entry 2); a write of CMD is answered at its issue (log entry 16). -/
def Obligations.IdlePortPerformsTransactions : Prop :=
  (∀ (s : State) (tx : Txn) (es : List HostEvent), s.busy = false → s.held = none → s.host = .txn tx :: es →
    step s = .next (perform { s with host := es } tx)) ∧
  (∀ (s : State) (a : Addr) (es : List HostEvent), s.busy = false → s.held = none → s.host = .txn (.read a) :: es →
    step s = .next { s with host := es, answers := s.answers ++ [.data (portRead s a)] }) ∧
  (∀ (s : State) (a : Addr) (v : Word) (es : List HostEvent), s.busy = false → s.held = none →
    s.host = .txn (.write a v) :: es →
    step s = .next { portWrite s a v with host := es, answers := s.answers ++ [.ack] }) ∧
  (∀ (s : State) (a : Addr), perform s (.read a) = { s with answers := s.answers ++ [.data (portRead s a)] }) ∧
  (∀ (s : State) (a : Addr) (v : Word),
    perform s (.write a v) = { portWrite s a v with answers := s.answers ++ [.ack] })
end

