-- ==== Sys2Proof/Laws/Decode.lean ====
section
/-! SUPPORT. Small facts about the command word: cutting it into fields and putting fields together are inverse, and
so are the codes of registers, carry selects and opcodes. -/

namespace Sys2Proof


/-- Putting fields together loses none of them (R61). -/
theorem fieldsOf_wordOf (f : Fields) : fieldsOf (wordOf f) = f := by
  obtain ⟨op, rd, ra, rb, rc, z, cin⟩ := f
  simp only [fieldsOf, wordOf, Fields.mk.injEq]
  refine ⟨?_, ?_, ?_, ?_, ?_, ?_, ?_⟩ <;>
    · apply BitVec.eq_of_getLsbD_eq
      intro i hi
      simp only [BitVec.getLsbD_extractLsb', BitVec.getLsbD_append]
      interval_cases i <;> simp

/-- The fields of a command word are all of it (R61). -/
theorem wordOf_fieldsOf (c : CmdWord) : wordOf (fieldsOf c) = c := by
  apply BitVec.eq_of_getLsbD_eq
  intro i hi
  simp only [fieldsOf, wordOf, BitVec.getLsbD_extractLsb', BitVec.getLsbD_append]
  interval_cases i <;> simp

/-- The 4-bit field of a register number is at most 7 (R62). -/
theorem nibble_le (r : Fin 8) : (nibble r).toNat ≤ 7 := by revert r; decide

theorem regOf_nibble (r : Fin 8) : regOf (nibble r) = r := by revert r; decide

theorem nibble_regOf (n : BitVec 4) (h : n.toNat ≤ 7) : nibble (regOf n) = n := by revert n; decide

theorem selOf_selBits (c : CarrySel) : selOf (selBits c) = c := by cases c <;> rfl

theorem selBits_selOf (c : BitVec 2) (h : c ≠ 3) : selBits (selOf c) = c := by revert c; decide

theorem opOfCode_opCode (o : Op) : opOfCode (opCode o) = some o := by cases o <;> decide

theorem opCode_of_opOfCode (c : BitVec 8) (o : Op) (h : opOfCode c = some o) : opCode o = c := by
  have := List.find?_some h; simpa using this

/-- Bits 31:0 of a CMD value that carries a command are its command word (R60). -/
theorem low_cmdValue (i : Instr) : (cmdValue i).extractLsb' 0 32 = encode i := by
  apply BitVec.eq_of_getLsbD_eq
  intro k hk
  simp [cmdValue, hk]
  omega

/-- Bits 63:32 of a CMD value that carries a command are zero (R60). -/
theorem high_cmdValue (i : Instr) : (cmdValue i).extractLsb' 32 32 = 0 := by
  apply BitVec.eq_of_getLsbD_eq
  intro k hk
  simp [cmdValue]

theorem cmdValue_of_high (v : Word) (h : v.extractLsb' 32 32 = 0) : (v.extractLsb' 0 32).setWidth 64 = v := by
  apply BitVec.eq_of_getLsbD_eq
  intro k hk
  have := congrArg (fun x => BitVec.getLsbD x (k - 32)) h
  simp at this ⊢
  by_cases hk' : k < 32 
  · simp [hk, hk']
  · have e : 32 + (k - 32) = k := by omega
    rw [e] at this
    simp [hk']; rw [this]; omega
end Sys2Proof
end

