-- ==== Sys2Proof/Laws/Limbs.lean ====
section
/-! SUPPORT. Arrays of limbs and the integers they represent (R15, R23): every L-limb pattern is one value below
2^(64L), and every such value one pattern. -/

namespace Sys2Proof.Machine

@[simp] theorem val_nil : val [] = 0 := rfl

@[simp] theorem val_cons (l : Word) (ls : List Word) : val (l :: ls) = l.toNat + 2 ^ 64 * val ls := rfl

@[simp] theorem radix_zero : radix 0 = 1 := rfl

theorem radix_succ (n : Nat) : radix (n + 1) = 2 ^ 64 * radix n := by
  rw [radix, radix, Nat.mul_add, Nat.pow_add, Nat.mul_comm]

theorem radix_pos (n : Nat) : 0 < radix n := Nat.pow_pos (by decide)

@[simp] theorem length_limbs (n v : Nat) : (limbs n v).length = n := by
  induction n generalizing v with
  | zero => rfl
  | succ n ih => simp [limbs, ih]

/-- Writing a value into n limbs keeps it modulo 2^(64 n). -/
theorem val_limbs (n v : Nat) : val (limbs n v) = v % radix n := by
  induction n generalizing v with
  | zero => simp [limbs, Nat.mod_one]
  | succ n ih => rw [limbs, val_cons, ih, radix_succ, Nat.mod_mul, BitVec.toNat_ofNat]

theorem val_limbs_of_lt (n v : Nat) (h : v < radix n) : val (limbs n v) = v := by
  rw [val_limbs, Nat.mod_eq_of_lt h]

theorem val_lt (ls : List Word) : val ls < radix ls.length := by
  induction ls with
  | nil => exact Nat.one_pos
  | cons l ls ih =>
    have hl : l.toNat < 2 ^ 64 := l.isLt
    rw [val_cons, List.length_cons, radix_succ]
    have : 2 ^ 64 * (val ls + 1) ≤ 2 ^ 64 * radix ls.length := Nat.mul_le_mul_left _ ih
    omega

/-- Every array of limbs is the decomposition of its own value. -/
theorem limbs_val (ls : List Word) : limbs ls.length (val ls) = ls := by
  induction ls with
  | nil => rfl
  | cons l ls ih =>
    have hl : l.toNat < 2 ^ 64 := l.isLt
    have hd : (l.toNat + 2 ^ 64 * val ls) / 2 ^ 64 = val ls := by omega
    have hm : BitVec.ofNat 64 (l.toNat + 2 ^ 64 * val ls) = l := by
      apply BitVec.eq_of_toNat_eq
      rw [BitVec.toNat_ofNat]; omega
    rw [val_cons, List.length_cons, limbs, hd, ih, hm]

/-- Two arrays of the same length with the same value are the same array. -/
theorem val_inj {as bs : List Word} (hl : as.length = bs.length) (h : val as = val bs) : as = bs := by
  rw [← limbs_val as, ← limbs_val bs, hl, h]

@[simp] theorem length_zeroLimbs (L : Nat) : (zeroLimbs L).length = L := List.length_replicate

@[simp] theorem val_zeroLimbs (L : Nat) : val (zeroLimbs L) = 0 := by
  induction L with
  | zero => rfl
  | succ L ih => rw [zeroLimbs, List.replicate_succ, val_cons, ← zeroLimbs, ih]; rfl

end Sys2Proof.Machine
end

