-- ==== Sys2Proof/Laws/State.lean ====
section
/-! SUPPORT. What each update of the state does to each field: one lemma per field per update, true by rfl. -/

namespace Sys2Proof.Machine

/-! ### `setW` -/

@[simp] theorem setW_nlimbs (s : State) (r : Fin 8) (v : Word) : (setW s r v).nlimbs = s.nlimbs := rfl
@[simp] theorem setW_w (s : State) (r : Fin 8) (v : Word) : (setW s r v).w = s.w.set r v := rfl
@[simp] theorem setW_b (s : State) (r : Fin 8) (v : Word) : (setW s r v).b = s.b := rfl
@[simp] theorem setW_cf (s : State) (r : Fin 8) (v : Word) : (setW s r v).cf = s.cf := rfl
@[simp] theorem setW_ord (s : State) (r : Fin 8) (v : Word) : (setW s r v).ord = s.ord := rfl
@[simp] theorem setW_ctx (s : State) (r : Fin 8) (v : Word) : (setW s r v).ctx = s.ctx := rfl
@[simp] theorem setW_busy (s : State) (r : Fin 8) (v : Word) : (setW s r v).busy = s.busy := rfl
@[simp] theorem setW_err (s : State) (r : Fin 8) (v : Word) : (setW s r v).err = s.err := rfl
@[simp] theorem setW_cmdr (s : State) (r : Fin 8) (v : Word) : (setW s r v).cmdr = s.cmdr := rfl
@[simp] theorem setW_held (s : State) (r : Fin 8) (v : Word) : (setW s r v).held = s.held := rfl
@[simp] theorem setW_host (s : State) (r : Fin 8) (v : Word) : (setW s r v).host = s.host := rfl
@[simp] theorem setW_answers (s : State) (r : Fin 8) (v : Word) : (setW s r v).answers = s.answers := rfl
@[simp] theorem setW_issues (s : State) (r : Fin 8) (v : Word) : (setW s r v).issues = s.issues := rfl
@[simp] theorem setW_work (s : State) (r : Fin 8) (v : Word) : (setW s r v).work = s.work := rfl

/-! ### `setB` -/

@[simp] theorem setB_nlimbs (s : State) (r : Fin 8) (v : Nat) : (setB s r v).nlimbs = s.nlimbs := rfl
@[simp] theorem setB_w (s : State) (r : Fin 8) (v : Nat) : (setB s r v).w = s.w := rfl
@[simp] theorem setB_b (s : State) (r : Fin 8) (v : Nat) : (setB s r v).b = s.b.set r (limbs s.nlimbs v) := rfl
@[simp] theorem setB_cf (s : State) (r : Fin 8) (v : Nat) : (setB s r v).cf = s.cf := rfl
@[simp] theorem setB_ord (s : State) (r : Fin 8) (v : Nat) : (setB s r v).ord = s.ord := rfl
@[simp] theorem setB_ctx (s : State) (r : Fin 8) (v : Nat) : (setB s r v).ctx = s.ctx := rfl
@[simp] theorem setB_busy (s : State) (r : Fin 8) (v : Nat) : (setB s r v).busy = s.busy := rfl
@[simp] theorem setB_err (s : State) (r : Fin 8) (v : Nat) : (setB s r v).err = s.err := rfl
@[simp] theorem setB_cmdr (s : State) (r : Fin 8) (v : Nat) : (setB s r v).cmdr = s.cmdr := rfl
@[simp] theorem setB_held (s : State) (r : Fin 8) (v : Nat) : (setB s r v).held = s.held := rfl
@[simp] theorem setB_host (s : State) (r : Fin 8) (v : Nat) : (setB s r v).host = s.host := rfl
@[simp] theorem setB_answers (s : State) (r : Fin 8) (v : Nat) : (setB s r v).answers = s.answers := rfl
@[simp] theorem setB_issues (s : State) (r : Fin 8) (v : Nat) : (setB s r v).issues = s.issues := rfl
@[simp] theorem setB_work (s : State) (r : Fin 8) (v : Nat) : (setB s r v).work = s.work := rfl

/-! ### `setLimb` -/

@[simp] theorem setLimb_nlimbs (s : State) (r : Fin 8) (j : Nat) (v : Word) : (setLimb s r j v).nlimbs = s.nlimbs := rfl
@[simp] theorem setLimb_w (s : State) (r : Fin 8) (j : Nat) (v : Word) : (setLimb s r j v).w = s.w := rfl
@[simp] theorem setLimb_b (s : State) (r : Fin 8) (j : Nat) (v : Word) : (setLimb s r j v).b = s.b.set r ((getB s r).set j v) := rfl
@[simp] theorem setLimb_cf (s : State) (r : Fin 8) (j : Nat) (v : Word) : (setLimb s r j v).cf = s.cf := rfl
@[simp] theorem setLimb_ord (s : State) (r : Fin 8) (j : Nat) (v : Word) : (setLimb s r j v).ord = s.ord := rfl
@[simp] theorem setLimb_ctx (s : State) (r : Fin 8) (j : Nat) (v : Word) : (setLimb s r j v).ctx = s.ctx := rfl
@[simp] theorem setLimb_busy (s : State) (r : Fin 8) (j : Nat) (v : Word) : (setLimb s r j v).busy = s.busy := rfl
@[simp] theorem setLimb_err (s : State) (r : Fin 8) (j : Nat) (v : Word) : (setLimb s r j v).err = s.err := rfl
@[simp] theorem setLimb_cmdr (s : State) (r : Fin 8) (j : Nat) (v : Word) : (setLimb s r j v).cmdr = s.cmdr := rfl
@[simp] theorem setLimb_held (s : State) (r : Fin 8) (j : Nat) (v : Word) : (setLimb s r j v).held = s.held := rfl
@[simp] theorem setLimb_host (s : State) (r : Fin 8) (j : Nat) (v : Word) : (setLimb s r j v).host = s.host := rfl
@[simp] theorem setLimb_answers (s : State) (r : Fin 8) (j : Nat) (v : Word) : (setLimb s r j v).answers = s.answers := rfl
@[simp] theorem setLimb_issues (s : State) (r : Fin 8) (j : Nat) (v : Word) : (setLimb s r j v).issues = s.issues := rfl
@[simp] theorem setLimb_work (s : State) (r : Fin 8) (j : Nat) (v : Word) : (setLimb s r j v).work = s.work := rfl

/-! ### `setCF` -/

@[simp] theorem setCF_nlimbs (s : State) (c : Bool) : (setCF s c).nlimbs = s.nlimbs := rfl
@[simp] theorem setCF_w (s : State) (c : Bool) : (setCF s c).w = s.w := rfl
@[simp] theorem setCF_b (s : State) (c : Bool) : (setCF s c).b = s.b := rfl
@[simp] theorem setCF_cf (s : State) (c : Bool) : (setCF s c).cf = c := rfl
@[simp] theorem setCF_ord (s : State) (c : Bool) : (setCF s c).ord = s.ord := rfl
@[simp] theorem setCF_ctx (s : State) (c : Bool) : (setCF s c).ctx = s.ctx := rfl
@[simp] theorem setCF_busy (s : State) (c : Bool) : (setCF s c).busy = s.busy := rfl
@[simp] theorem setCF_err (s : State) (c : Bool) : (setCF s c).err = s.err := rfl
@[simp] theorem setCF_cmdr (s : State) (c : Bool) : (setCF s c).cmdr = s.cmdr := rfl
@[simp] theorem setCF_held (s : State) (c : Bool) : (setCF s c).held = s.held := rfl
@[simp] theorem setCF_host (s : State) (c : Bool) : (setCF s c).host = s.host := rfl
@[simp] theorem setCF_answers (s : State) (c : Bool) : (setCF s c).answers = s.answers := rfl
@[simp] theorem setCF_issues (s : State) (c : Bool) : (setCF s c).issues = s.issues := rfl
@[simp] theorem setCF_work (s : State) (c : Bool) : (setCF s c).work = s.work := rfl

/-! ### `setOrd` -/

@[simp] theorem setOrd_nlimbs (s : State) (o : Order) : (setOrd s o).nlimbs = s.nlimbs := rfl
@[simp] theorem setOrd_w (s : State) (o : Order) : (setOrd s o).w = s.w := rfl
@[simp] theorem setOrd_b (s : State) (o : Order) : (setOrd s o).b = s.b := rfl
@[simp] theorem setOrd_cf (s : State) (o : Order) : (setOrd s o).cf = s.cf := rfl
@[simp] theorem setOrd_ord (s : State) (o : Order) : (setOrd s o).ord = o := rfl
@[simp] theorem setOrd_ctx (s : State) (o : Order) : (setOrd s o).ctx = s.ctx := rfl
@[simp] theorem setOrd_busy (s : State) (o : Order) : (setOrd s o).busy = s.busy := rfl
@[simp] theorem setOrd_err (s : State) (o : Order) : (setOrd s o).err = s.err := rfl
@[simp] theorem setOrd_cmdr (s : State) (o : Order) : (setOrd s o).cmdr = s.cmdr := rfl
@[simp] theorem setOrd_held (s : State) (o : Order) : (setOrd s o).held = s.held := rfl
@[simp] theorem setOrd_host (s : State) (o : Order) : (setOrd s o).host = s.host := rfl
@[simp] theorem setOrd_answers (s : State) (o : Order) : (setOrd s o).answers = s.answers := rfl
@[simp] theorem setOrd_issues (s : State) (o : Order) : (setOrd s o).issues = s.issues := rfl
@[simp] theorem setOrd_work (s : State) (o : Order) : (setOrd s o).work = s.work := rfl

/-! ### `setCtx` -/

@[simp] theorem setCtx_nlimbs (s : State) (c : Ctx) : (setCtx s c).nlimbs = s.nlimbs := rfl
@[simp] theorem setCtx_w (s : State) (c : Ctx) : (setCtx s c).w = s.w := rfl
@[simp] theorem setCtx_b (s : State) (c : Ctx) : (setCtx s c).b = s.b := rfl
@[simp] theorem setCtx_cf (s : State) (c : Ctx) : (setCtx s c).cf = s.cf := rfl
@[simp] theorem setCtx_ord (s : State) (c : Ctx) : (setCtx s c).ord = s.ord := rfl
@[simp] theorem setCtx_ctx (s : State) (c : Ctx) : (setCtx s c).ctx = c := rfl
@[simp] theorem setCtx_busy (s : State) (c : Ctx) : (setCtx s c).busy = s.busy := rfl
@[simp] theorem setCtx_err (s : State) (c : Ctx) : (setCtx s c).err = s.err := rfl
@[simp] theorem setCtx_cmdr (s : State) (c : Ctx) : (setCtx s c).cmdr = s.cmdr := rfl
@[simp] theorem setCtx_held (s : State) (c : Ctx) : (setCtx s c).held = s.held := rfl
@[simp] theorem setCtx_host (s : State) (c : Ctx) : (setCtx s c).host = s.host := rfl
@[simp] theorem setCtx_answers (s : State) (c : Ctx) : (setCtx s c).answers = s.answers := rfl
@[simp] theorem setCtx_issues (s : State) (c : Ctx) : (setCtx s c).issues = s.issues := rfl
@[simp] theorem setCtx_work (s : State) (c : Ctx) : (setCtx s c).work = s.work := rfl

/-! ### `clearAll` -/

@[simp] theorem clearAll_nlimbs (s : State) : (clearAll s).nlimbs = s.nlimbs := rfl
@[simp] theorem clearAll_w (s : State) : (clearAll s).w = Vector.replicate 8 0 := rfl
@[simp] theorem clearAll_b (s : State) : (clearAll s).b = Vector.replicate 8 (zeroLimbs s.nlimbs) := rfl
@[simp] theorem clearAll_cf (s : State) : (clearAll s).cf = false := rfl
@[simp] theorem clearAll_ord (s : State) : (clearAll s).ord = .equal := rfl
@[simp] theorem clearAll_ctx (s : State) : (clearAll s).ctx = Ctx.empty s.nlimbs := rfl
@[simp] theorem clearAll_busy (s : State) : (clearAll s).busy = s.busy := rfl
@[simp] theorem clearAll_err (s : State) : (clearAll s).err = s.err := rfl
@[simp] theorem clearAll_cmdr (s : State) : (clearAll s).cmdr = s.cmdr := rfl
@[simp] theorem clearAll_held (s : State) : (clearAll s).held = s.held := rfl
@[simp] theorem clearAll_host (s : State) : (clearAll s).host = s.host := rfl
@[simp] theorem clearAll_answers (s : State) : (clearAll s).answers = s.answers := rfl
@[simp] theorem clearAll_issues (s : State) : (clearAll s).issues = s.issues := rfl
@[simp] theorem clearAll_work (s : State) : (clearAll s).work = s.work := rfl

/-! ### `finish` -/

@[simp] theorem finish_nlimbs (k : ErrKind) (s : State) : (finish k s).nlimbs = s.nlimbs := rfl
@[simp] theorem finish_w (k : ErrKind) (s : State) : (finish k s).w = s.w := rfl
@[simp] theorem finish_b (k : ErrKind) (s : State) : (finish k s).b = s.b := rfl
@[simp] theorem finish_cf (k : ErrKind) (s : State) : (finish k s).cf = s.cf := rfl
@[simp] theorem finish_ord (k : ErrKind) (s : State) : (finish k s).ord = s.ord := rfl
@[simp] theorem finish_ctx (k : ErrKind) (s : State) : (finish k s).ctx = s.ctx := rfl
@[simp] theorem finish_busy (k : ErrKind) (s : State) : (finish k s).busy = false := rfl
@[simp] theorem finish_err (k : ErrKind) (s : State) : (finish k s).err = k := rfl
@[simp] theorem finish_cmdr (k : ErrKind) (s : State) : (finish k s).cmdr = s.cmdr := rfl
@[simp] theorem finish_held (k : ErrKind) (s : State) : (finish k s).held = s.held := rfl
@[simp] theorem finish_host (k : ErrKind) (s : State) : (finish k s).host = s.host := rfl
@[simp] theorem finish_answers (k : ErrKind) (s : State) : (finish k s).answers = s.answers := rfl
@[simp] theorem finish_issues (k : ErrKind) (s : State) : (finish k s).issues = s.issues := rfl
@[simp] theorem finish_work (k : ErrKind) (s : State) : (finish k s).work = s.work := rfl

/-! ### `issue` -/

@[simp] theorem issue_nlimbs (s : State) (v : Word) : (issue s v).nlimbs = s.nlimbs := rfl
@[simp] theorem issue_w (s : State) (v : Word) : (issue s v).w = s.w := rfl
@[simp] theorem issue_b (s : State) (v : Word) : (issue s v).b = s.b := rfl
@[simp] theorem issue_cf (s : State) (v : Word) : (issue s v).cf = s.cf := rfl
@[simp] theorem issue_ord (s : State) (v : Word) : (issue s v).ord = s.ord := rfl
@[simp] theorem issue_ctx (s : State) (v : Word) : (issue s v).ctx = s.ctx := rfl
@[simp] theorem issue_busy (s : State) (v : Word) : (issue s v).busy = true := rfl
@[simp] theorem issue_err (s : State) (v : Word) : (issue s v).err = s.err := rfl
@[simp] theorem issue_cmdr (s : State) (v : Word) : (issue s v).cmdr = v := rfl
@[simp] theorem issue_held (s : State) (v : Word) : (issue s v).held = s.held := rfl
@[simp] theorem issue_host (s : State) (v : Word) : (issue s v).host = s.host := rfl
@[simp] theorem issue_answers (s : State) (v : Word) : (issue s v).answers = s.answers := rfl
@[simp] theorem issue_issues (s : State) (v : Word) : (issue s v).issues = s.issues + 1 := rfl
@[simp] theorem issue_work (s : State) (v : Word) : (issue s v).work = Config.latency s.issues := rfl

/-! ### `answer` -/

@[simp] theorem answer_nlimbs (s : State) (x : Answer) : (answer s x).nlimbs = s.nlimbs := rfl
@[simp] theorem answer_w (s : State) (x : Answer) : (answer s x).w = s.w := rfl
@[simp] theorem answer_b (s : State) (x : Answer) : (answer s x).b = s.b := rfl
@[simp] theorem answer_cf (s : State) (x : Answer) : (answer s x).cf = s.cf := rfl
@[simp] theorem answer_ord (s : State) (x : Answer) : (answer s x).ord = s.ord := rfl
@[simp] theorem answer_ctx (s : State) (x : Answer) : (answer s x).ctx = s.ctx := rfl
@[simp] theorem answer_busy (s : State) (x : Answer) : (answer s x).busy = s.busy := rfl
@[simp] theorem answer_err (s : State) (x : Answer) : (answer s x).err = s.err := rfl
@[simp] theorem answer_cmdr (s : State) (x : Answer) : (answer s x).cmdr = s.cmdr := rfl
@[simp] theorem answer_held (s : State) (x : Answer) : (answer s x).held = s.held := rfl
@[simp] theorem answer_host (s : State) (x : Answer) : (answer s x).host = s.host := rfl
@[simp] theorem answer_answers (s : State) (x : Answer) : (answer s x).answers = s.answers ++ [x] := rfl
@[simp] theorem answer_issues (s : State) (x : Answer) : (answer s x).issues = s.issues := rfl
@[simp] theorem answer_work (s : State) (x : Answer) : (answer s x).work = s.work := rfl

/-! ### `resetBlock` -/

@[simp] theorem resetBlock_nlimbs (s : State) : (resetBlock s).nlimbs = s.nlimbs := rfl
@[simp] theorem resetBlock_w (s : State) : (resetBlock s).w = Vector.replicate 8 0 := rfl
@[simp] theorem resetBlock_b (s : State) : (resetBlock s).b = Vector.replicate 8 (zeroLimbs s.nlimbs) := rfl
@[simp] theorem resetBlock_cf (s : State) : (resetBlock s).cf = false := rfl
@[simp] theorem resetBlock_ord (s : State) : (resetBlock s).ord = .equal := rfl
@[simp] theorem resetBlock_ctx (s : State) : (resetBlock s).ctx = Ctx.empty s.nlimbs := rfl
@[simp] theorem resetBlock_busy (s : State) : (resetBlock s).busy = false := rfl
@[simp] theorem resetBlock_err (s : State) : (resetBlock s).err = .ok := rfl
@[simp] theorem resetBlock_cmdr (s : State) : (resetBlock s).cmdr = 0 := rfl
@[simp] theorem resetBlock_held (s : State) : (resetBlock s).held = none := rfl
@[simp] theorem resetBlock_host (s : State) : (resetBlock s).host = s.host := rfl
@[simp] theorem resetBlock_answers (s : State) : (resetBlock s).answers = s.answers := rfl
@[simp] theorem resetBlock_issues (s : State) : (resetBlock s).issues = s.issues := rfl
@[simp] theorem resetBlock_work (s : State) : (resetBlock s).work = 0 := rfl

/-! ### `resetOf` -/

@[simp] theorem resetOf_nlimbs (L : Nat) : (State.resetOf L).nlimbs = L := rfl
@[simp] theorem resetOf_w (L : Nat) : (State.resetOf L).w = Vector.replicate 8 0 := rfl
@[simp] theorem resetOf_b (L : Nat) : (State.resetOf L).b = Vector.replicate 8 (zeroLimbs L) := rfl
@[simp] theorem resetOf_cf (L : Nat) : (State.resetOf L).cf = false := rfl
@[simp] theorem resetOf_ord (L : Nat) : (State.resetOf L).ord = .equal := rfl
@[simp] theorem resetOf_ctx (L : Nat) : (State.resetOf L).ctx = Ctx.empty L := rfl
@[simp] theorem resetOf_busy (L : Nat) : (State.resetOf L).busy = false := rfl
@[simp] theorem resetOf_err (L : Nat) : (State.resetOf L).err = .ok := rfl
@[simp] theorem resetOf_cmdr (L : Nat) : (State.resetOf L).cmdr = 0 := rfl
@[simp] theorem resetOf_held (L : Nat) : (State.resetOf L).held = none := rfl
@[simp] theorem resetOf_host (L : Nat) : (State.resetOf L).host = [] := rfl
@[simp] theorem resetOf_answers (L : Nat) : (State.resetOf L).answers = [] := rfl
@[simp] theorem resetOf_issues (L : Nat) : (State.resetOf L).issues = 0 := rfl
@[simp] theorem resetOf_work (L : Nat) : (State.resetOf L).work = 0 := rfl

/-! ### Reading a register after an update -/

@[simp] theorem getW_setW_self (s : State) (r : Fin 8) (v : Word) : getW (setW s r v) r = v := by
  simp [getW]

theorem getW_setW_ne (s : State) (r q : Fin 8) (v : Word) (h : q ≠ r) : getW (setW s r v) q = getW s q := by
  simp only [getW, setW_w, Fin.getElem_fin]
  exact Vector.getElem_set_ne _ _ (fun e => h (Fin.ext e.symm))

@[simp] theorem getB_setB_self (s : State) (r : Fin 8) (v : Nat) : getB (setB s r v) r = limbs s.nlimbs v := by
  simp [getB]

theorem getB_setB_ne (s : State) (r q : Fin 8) (v : Nat) (h : q ≠ r) : getB (setB s r v) q = getB s q := by
  simp only [getB, setB_b, Fin.getElem_fin]
  exact Vector.getElem_set_ne _ _ (fun e => h (Fin.ext e.symm))

@[simp] theorem getB_setLimb_self (s : State) (r : Fin 8) (j : Nat) (v : Word) :
    getB (setLimb s r j v) r = (getB s r).set j v := by
  simp [getB]

theorem getB_setLimb_ne (s : State) (r q : Fin 8) (j : Nat) (v : Word) (h : q ≠ r) :
    getB (setLimb s r j v) q = getB s q := by
  simp only [getB, setLimb_b, Fin.getElem_fin]
  exact Vector.getElem_set_ne _ _ (fun e => h (Fin.ext e.symm))

@[simp] theorem getB_setW (s : State) (r q : Fin 8) (v : Word) : getB (setW s r v) q = getB s q := rfl
@[simp] theorem getW_setB (s : State) (r q : Fin 8) (v : Nat) : getW (setB s r v) q = getW s q := rfl
@[simp] theorem getW_setCF (s : State) (c : Bool) (q : Fin 8) : getW (setCF s c) q = getW s q := rfl
@[simp] theorem getB_setCF (s : State) (c : Bool) (q : Fin 8) : getB (setCF s c) q = getB s q := rfl
@[simp] theorem getW_setOrd (s : State) (o : Order) (q : Fin 8) : getW (setOrd s o) q = getW s q := rfl
@[simp] theorem getB_setOrd (s : State) (o : Order) (q : Fin 8) : getB (setOrd s o) q = getB s q := rfl
@[simp] theorem getW_setCtx (s : State) (c : Ctx) (q : Fin 8) : getW (setCtx s c) q = getW s q := rfl
@[simp] theorem getB_setCtx (s : State) (c : Ctx) (q : Fin 8) : getB (setCtx s c) q = getB s q := rfl
@[simp] theorem getW_finish (k : ErrKind) (s : State) (q : Fin 8) : getW (finish k s) q = getW s q := rfl
@[simp] theorem getB_finish (k : ErrKind) (s : State) (q : Fin 8) : getB (finish k s) q = getB s q := rfl

@[simp] theorem getW_clearAll (s : State) (q : Fin 8) : getW (clearAll s) q = 0 := by
  simp [getW]

@[simp] theorem getB_clearAll (s : State) (q : Fin 8) : getB (clearAll s) q = zeroLimbs s.nlimbs := by
  simp [getB]

end Sys2Proof.Machine
end

