-- ==== Sys2Proof/Laws/Ops.lean ====
section
/-! SUPPORT. What each shared operation can do, said once: the context check, the two completions, the turns of the
port and the step; and that every operation on the BigUint registers keeps their length (R22). -/

namespace Sys2Proof.Machine

/-! ### Values of BigUint registers -/

theorem valB_setB_self (s : State) (r : Fin 8) (v : Nat) : valB (setB s r v) r = v % radix s.nlimbs := by
  rw [valB, getB_setB_self, val_limbs]

theorem valB_setB_ne (s : State) (r q : Fin 8) (v : Nat) (h : q ≠ r) : valB (setB s r v) q = valB s q := by
  rw [valB, getB_setB_ne s r q v h, valB]

theorem valB_lt (s : State) (r : Fin 8) (h : BanksOk s) : valB s r < radix s.nlimbs := by
  have := val_lt (getB s r)
  rwa [h r] at this

/-! ### Lengths (R22) -/

theorem banksOk_setB (s : State) (r : Fin 8) (v : Nat) (h : BanksOk s) : BanksOk (setB s r v) := by
  intro q
  by_cases e : q = r
  · rw [e, getB_setB_self, length_limbs, setB_nlimbs]
  · rw [getB_setB_ne s r q v e, setB_nlimbs, h q]

theorem banksOk_setLimb (s : State) (r : Fin 8) (j : Nat) (v : Word) (h : BanksOk s) :
    BanksOk (setLimb s r j v) := by
  intro q
  by_cases e : q = r
  · rw [e, getB_setLimb_self, List.length_set, setLimb_nlimbs, h r]
  · rw [getB_setLimb_ne s r q j v e, setLimb_nlimbs, h q]

theorem banksOk_clearAll (s : State) : BanksOk (clearAll s) := by
  intro q
  rw [getB_clearAll, length_zeroLimbs, clearAll_nlimbs]

/-- The empty slot meets the context invariant (R28). -/
theorem ctxOk_empty (L : Nat) : CtxOk L (Ctx.empty L) := by
  refine ⟨length_zeroLimbs L, length_zeroLimbs L, fun h => ?_, fun _ => ⟨rfl, rfl, rfl⟩⟩
  simp [Ctx.empty] at h

/-! ### Completions -/

/-- The context check (R120): without a context the command ends with InvalidOperand, with one it goes on. -/
theorem needContext_eq_next {s t : State} {m : Res} (h : needContext s m = .next t) :
    (s.ctx.valid = true ∧ m = .next t) ∨ (s.ctx.valid = false ∧ t = finish .invalidOperand s) := by
  unfold needContext raise at h
  split at h
  · exact .inl ⟨‹_›, h⟩
  · exact .inr ⟨Bool.eq_false_iff.mpr ‹_›, by cases h; rfl⟩

theorem needContext_valid {s : State} (m : Res) (h : s.ctx.valid = true) : needContext s m = m := by
  rw [needContext, if_pos h]

theorem needContext_invalid {s : State} (m : Res) (h : s.ctx.valid = false) :
    needContext s m = .next (finish .invalidOperand s) := by
  rw [needContext, if_neg (by simp [h]), raise]

theorem succeed_eq_next {s t : State} (h : succeed s = .next t) : t = finish .ok s := by
  cases h; rfl

theorem raise_eq_next {k : ErrKind} {s t : State} (h : raise k s = .next t) : t = finish k s := by
  cases h; rfl

/-! ### Turns -/

/-- A turn with BUSY = 0 is one of four things (R49, R176, R178). -/
theorem idleTurn_cases (s : State) :
    (∃ tx, s.held = some tx ∧ idleTurn s = perform { s with held := none } tx) ∨
    (s.held = none ∧ s.host = [] ∧ idleTurn s = s) ∨
    (∃ tx es, s.held = none ∧ s.host = .txn tx :: es ∧ idleTurn s = perform { s with host := es } tx) ∨
    (∃ es, s.held = none ∧ s.host = .reset :: es ∧ idleTurn s = resetBlock { s with host := es }) := by
  unfold idleTurn
  split
  · exact .inl ⟨_, ‹_›, rfl⟩
  · split
    · exact .inr (.inl ⟨‹_›, ‹_›, rfl⟩)
    · exact .inr (.inr (.inl ⟨_, _, ‹_›, ‹_›, rfl⟩))
    · exact .inr (.inr (.inr ⟨_, ‹_›, ‹_›, rfl⟩))

/-- A turn with BUSY = 1 before the completion is one of four things (R49, R176). -/
theorem busyTurn_cases {s t : State} (h : busyTurn s = some t) :
    s.work ≠ 0 ∧
    (t = { s with work := s.work - 1 } ∨
     (∃ es, s.host = .reset :: es ∧ t = resetBlock { s with host := es }) ∨
     (∃ tx es, s.host = .txn tx :: es ∧ s.held = none ∧ answeredWhileBusy tx = true ∧
       t = perform { s with host := es, work := s.work - 1 } tx) ∨
     (∃ tx es, s.host = .txn tx :: es ∧ s.held = none ∧ answeredWhileBusy tx = false ∧
       t = { s with host := es, work := s.work - 1, held := some tx })) := by
  unfold busyTurn at h
  split at h
  · cases h
  · refine ⟨‹_›, ?_⟩
    split at h
    · exact .inl (by cases h; rfl)
    · exact .inr (.inl ⟨_, ‹_›, by cases h; rfl⟩)
    · split at h
      · exact .inl (by cases h; rfl)
      · split at h
        · exact .inr (.inr (.inl ⟨_, _, ‹_›, ‹_›, ‹_›, by cases h; rfl⟩))
        · exact .inr (.inr (.inr ⟨_, _, ‹_›, ‹_›, Bool.eq_false_iff.mpr ‹_›, by cases h; rfl⟩))

/-- A step is a turn of the idle port, a turn before the completion, or the completion (R150). -/
theorem step_cases {s t : State} (h : step s = .next t) :
    (s.busy = false ∧ t = idleTurn s) ∨
    (s.busy = true ∧ busyTurn s = some t) ∨
    (s.busy = true ∧ s.work = 0 ∧ completion s = .next t) := by
  unfold step turn at h
  split at h
  · rename_i hb
    split at h
    · rename_i u hu
      cases h
      exact .inr (.inl ⟨hb, hu⟩)
    · rename_i hu
      refine .inr (.inr ⟨hb, ?_, h⟩)
      by_contra hw
      unfold busyTurn at hu
      rw [if_neg hw] at hu
      repeat' split at hu
      all_goals cases hu
  · cases h
    exact .inl ⟨Bool.eq_false_iff.mpr ‹_›, rfl⟩

/-- A completion runs the decoded command, or completes with InvalidOperand (R66, R150). -/
theorem completion_cases {s t : State} (h : completion s = .next t) :
    (∃ i, Sys2Proof.decode s.cmdr = .ok i ∧ exec i s = .next t) ∨
    (∃ e, Sys2Proof.decode s.cmdr = .error e ∧ t = finish .invalidOperand s) := by
  unfold completion at h
  split at h
  · exact .inl ⟨_, ‹_›, h⟩
  · exact .inr ⟨_, ‹_›, raise_eq_next h⟩

/-! ### Runs -/

/-- A run of k+1 steps is a step and a run of k steps. -/
theorem run_succ {s t : State} (k : Nat) (h : step s = .next t) :
    Host.Core.run Sys2Proof.core (k + 1) s = Host.Core.run Sys2Proof.core k t := by
  have h' : Sys2Proof.core.step s = .next t := h
  simp only [Host.Core.run, h']

end Sys2Proof.Machine
end

