-- ==== Sys2Proof/Laws/PerInstr.lean ====
section
/-! SUPPORT. Statements about every command as syntax, one lemma per constructor (LAWS.json, per_instruction). -/

namespace Sys2Proof.Laws.EncodeFits

/-- The fields that the encoder gives a command pass the decoder's field checks: its opcode names it, `z` is zero, the
fields it does not use are zero and the others hold 0 .. 7 (R62, R64, R65). -/
def Statement (i : Instr) : Prop :=
  opOfCode (encodeFields i).op = some (opOf i) ∧ (encodeFields i).z = 0 ∧
  unusedFieldsZero (fieldUse (opOf i)) (encodeFields i) = true ∧
  regsInRange (fieldUse (opOf i)) (encodeFields i) = true

theorem mulw (rd rc ra rb : WReg) : Statement (.mulw rd rc ra rb) := by
  refine ⟨opOfCode_opCode .mulw, rfl, ?_, ?_⟩ <;>
    simp [unusedFieldsZero, regsInRange, encodeFields, blankFields, fieldUse, opOf, unusedIsZero, regInRange, nibble_le]

theorem adcw (rd ra rb : WReg) (c : CarrySel) : Statement (.adcw rd ra rb c) := by
  refine ⟨opOfCode_opCode .adcw, rfl, ?_, ?_⟩ <;>
    simp [unusedFieldsZero, regsInRange, encodeFields, blankFields, fieldUse, opOf, unusedIsZero, regInRange, nibble_le]

theorem sbbw (rd ra rb : WReg) (c : CarrySel) : Statement (.sbbw rd ra rb c) := by
  refine ⟨opOfCode_opCode .sbbw, rfl, ?_, ?_⟩ <;>
    simp [unusedFieldsZero, regsInRange, encodeFields, blankFields, fieldUse, opOf, unusedIsZero, regInRange, nibble_le]

theorem add (rd ra rb : BReg) : Statement (.add rd ra rb) := by
  refine ⟨opOfCode_opCode .add, rfl, ?_, ?_⟩ <;>
    simp [unusedFieldsZero, regsInRange, encodeFields, blankFields, fieldUse, opOf, unusedIsZero, regInRange, nibble_le]

theorem sub (rd ra rb : BReg) : Statement (.sub rd ra rb) := by
  refine ⟨opOfCode_opCode .sub, rfl, ?_, ?_⟩ <;>
    simp [unusedFieldsZero, regsInRange, encodeFields, blankFields, fieldUse, opOf, unusedIsZero, regInRange, nibble_le]

theorem cmp (ra rb : BReg) : Statement (.cmp ra rb) := by
  refine ⟨opOfCode_opCode .cmp, rfl, ?_, ?_⟩ <;>
    simp [unusedFieldsZero, regsInRange, encodeFields, blankFields, fieldUse, opOf, unusedIsZero, regInRange, nibble_le]

theorem mulf (rd ra rb : BReg) : Statement (.mulf rd ra rb) := by
  refine ⟨opOfCode_opCode .mulf, rfl, ?_, ?_⟩ <;>
    simp [unusedFieldsZero, regsInRange, encodeFields, blankFields, fieldUse, opOf, unusedIsZero, regInRange, nibble_le]

theorem shl (rd ra : BReg) (rc : WReg) : Statement (.shl rd ra rc) := by
  refine ⟨opOfCode_opCode .shl, rfl, ?_, ?_⟩ <;>
    simp [unusedFieldsZero, regsInRange, encodeFields, blankFields, fieldUse, opOf, unusedIsZero, regInRange, nibble_le]

theorem shr (rd ra : BReg) (rc : WReg) : Statement (.shr rd ra rc) := by
  refine ⟨opOfCode_opCode .shr, rfl, ?_, ?_⟩ <;>
    simp [unusedFieldsZero, regsInRange, encodeFields, blankFields, fieldUse, opOf, unusedIsZero, regInRange, nibble_le]

theorem setmod (ra : BReg) : Statement (.setmod ra) := by
  refine ⟨opOfCode_opCode .setmod, rfl, ?_, ?_⟩ <;>
    simp [unusedFieldsZero, regsInRange, encodeFields, blankFields, fieldUse, opOf, unusedIsZero, regInRange, nibble_le]

theorem tomont (rd ra : BReg) : Statement (.tomont rd ra) := by
  refine ⟨opOfCode_opCode .tomont, rfl, ?_, ?_⟩ <;>
    simp [unusedFieldsZero, regsInRange, encodeFields, blankFields, fieldUse, opOf, unusedIsZero, regInRange, nibble_le]

theorem montmul (rd ra rb : BReg) : Statement (.montmul rd ra rb) := by
  refine ⟨opOfCode_opCode .montmul, rfl, ?_, ?_⟩ <;>
    simp [unusedFieldsZero, regsInRange, encodeFields, blankFields, fieldUse, opOf, unusedIsZero, regInRange, nibble_le]

theorem frommont (rd ra : BReg) : Statement (.frommont rd ra) := by
  refine ⟨opOfCode_opCode .frommont, rfl, ?_, ?_⟩ <;>
    simp [unusedFieldsZero, regsInRange, encodeFields, blankFields, fieldUse, opOf, unusedIsZero, regInRange, nibble_le]

theorem modexp (rd ra rb : BReg) : Statement (.modexp rd ra rb) := by
  refine ⟨opOfCode_opCode .modexp, rfl, ?_, ?_⟩ <;>
    simp [unusedFieldsZero, regsInRange, encodeFields, blankFields, fieldUse, opOf, unusedIsZero, regInRange, nibble_le]

theorem rsat (rd ra rb : BReg) : Statement (.rsat rd ra rb) := by
  refine ⟨opOfCode_opCode .rsat, rfl, ?_, ?_⟩ <;>
    simp [unusedFieldsZero, regsInRange, encodeFields, blankFields, fieldUse, opOf, unusedIsZero, regInRange, nibble_le]

theorem zeroize : Statement (.zeroize) := by
  refine ⟨opOfCode_opCode .zeroize, rfl, ?_, ?_⟩ <;>
    simp [unusedFieldsZero, regsInRange, encodeFields, blankFields, fieldUse, opOf, unusedIsZero, regInRange]

end Sys2Proof.Laws.EncodeFits
end

