-- ==== Sys2Proof/Tests/Slice0.lean ====
section
/-! SUPPORT. Tests: well-formedness, decoding of words written out from 97 section 3.1, one step per command with the
values of spec/96 and spec/97, the port, and a witness for the hypotheses of every statement. -/

open Sys2Proof Sys2Proof.Machine

namespace Sys2Proof.Tests

/-! ### Small states -/

/-- A block of two limbs right after reset, the start state of most vectors of 96 and 97. -/
def base : State := State.resetOf 2

/-- The state after vector SM1: N = 3233, n = 1, N′ as 97 section 1.1 gives it. -/
def withCtx : State :=
  { base with ctx := { valid := true, n := [0xCA1, 0], np := [0x85BDA4F0669F289F, 0], rl := 1 } }

/-- Two BigUint registers set. -/
def set2 (s : State) (i : Fin 8) (v : Nat) (j : Fin 8) (u : Nat) : State := setB (setB s i v) j u

/-- A command issued and not completed, with `n` steps of latency left. -/
def running (s : State) (cmd : Word) (n : Nat) (es : List HostEvent) : State :=
  { s with busy := true, cmdr := cmd, work := n, host := es }

/-- What the port reads at `a` in the state that an outcome answers. -/
def readAfter (o : Res) (a : Addr) : Option Word :=
  match o with
  | .next t => some (portRead t a)
  | _ => none

/-- The value of a BigUint register in the state that an outcome answers. -/
def bigAfter (o : Res) (r : Fin 8) : Option Nat :=
  match o with
  | .next t => some (valB t r)
  | _ => none

/-- The state that an outcome answers. -/
def stateAfter (o : Res) : Option State :=
  match o with
  | .next t => some t
  | _ => none

/-! ### Well-formedness: the two checks on operands (R65, R67) -/

theorem test_mulw_same_destination_is_ill_formed : wellFormed (.mulw 3 3 0 1) = false := by decide
theorem test_mulf_odd_destination_is_ill_formed :
    wellFormed (.mulf 1 1 2) = false ∧ wellFormed (.mulf 7 1 2) = false := by decide
theorem test_mulw_mulf_well_formed :
    wellFormed (.mulw 3 2 0 1) = true ∧ wellFormed (.mulf 6 7 7) = true := by decide

/-! ### Decoding: 97 section 3.1 (every command) and 3.2 (illegal values) -/

theorem test_decode_word_unit :
    decode 0x01301200 = .ok (.mulw 3 2 0 1) ∧ decode 0x01765400 = .ok (.mulw 7 4 6 5) ∧
    decode 0x02201000 = .ok (.adcw 2 0 1 .zero) ∧ decode 0x02201001 = .ok (.adcw 2 0 1 .one) ∧
    decode 0x02777002 = .ok (.adcw 7 7 7 .flag) ∧ decode 0x03456002 = .ok (.sbbw 4 5 6 .flag) := by decide
theorem test_decode_biguint :
    decode 0x10012000 = .ok (.add 0 1 2) ∧ decode 0x11777000 = .ok (.sub 7 7 7) ∧
    decode 0x12012000 = .ok (.cmp 1 2) ∧ decode 0x12070000 = .ok (.cmp 7 0) ∧
    decode 0x13677000 = .ok (.mulf 6 7 7) ∧ decode 0x14560700 = .ok (.shl 5 6 7) ∧
    decode 0x15010000 = .ok (.shr 0 1 0) := by decide
theorem test_decode_montgomery :
    decode 0x20070000 = .ok (.setmod 7) ∧ decode 0x21210000 = .ok (.tomont 2 1) ∧
    decode 0x22312000 = .ok (.montmul 3 1 2) ∧ decode 0x23430000 = .ok (.frommont 4 3) := by decide
theorem test_decode_exponentiation_and_system :
    decode 0x30312000 = .ok (.modexp 3 1 2) ∧ decode 0x31777000 = .ok (.rsat 7 7 7) ∧
    decode 0xF0000000 = .ok .zeroize := by decide
/-- IL1, IL2, IL5, IL10, IL11, IL13. -/
theorem test_decode_illegal_one :
    decode 0 = .error .reservedOpcode ∧ decode 0x0000000101301200 = .error .upperBits ∧
    decode 0x04000000 = .error .reservedOpcode ∧ decode 0x01301204 = .error .zField ∧
    decode 0x01301201 = .error .unusedField ∧ decode 0x01000000 = .error .sameDestination := by decide
/-- IL14 to IL19, IL25, IL27 to IL29, IL40. -/
theorem test_decode_illegal_two :
    decode 0x01801200 = .error .registerNumber ∧ decode 0x01380200 = .error .registerNumber ∧
    decode 0x01308200 = .error .registerNumber ∧ decode 0x01301800 = .error .registerNumber ∧
    decode 0x02201003 = .error .carrySelect ∧ decode 0x03201003 = .error .carrySelect ∧
    decode 0x12112000 = .error .unusedField ∧ decode 0x13112000 = .error .oddPair ∧
    decode 0x13712000 = .error .oddPair ∧ decode 0x13812000 = .error .registerNumber ∧
    decode 0xF0000001 = .error .unusedField := by decide
/-- The words of 97 section 3.1 for the operands at the right, by the encoder. -/
theorem test_encode :
    encode (.mulw 7 4 6 5) = 0x01765400 ∧ encode (.adcw 2 0 1 .one) = 0x02201001 ∧
    encode (.shl 5 6 7) = 0x14560700 ∧ encode (.cmp 7 0) = 0x12070000 := by decide

/-! ### One command each: values of 96 and 97 -/

/-- 96 section 1.1: both destinations are sources. -/
theorem test_mulw_in_place :
    let o := exec (.mulw 1 0 0 1) (setW (setW base 0 7) 1 0xFFFFFFFFFFFFFFFF)
    readAfter o 0x0011 = some 6 ∧ readAfter o 0x0010 = some 0xFFFFFFFFFFFFFFF9 := by decide
/-- MW12. -/
theorem test_mulw :
    let o := exec (.mulw 3 2 0 1) (setW (setW base 0 0x0123456789ABCDEF) 1 0xFEDCBA9876543210)
    readAfter o 0x0013 = some 0x0121FA00AD77D742 ∧ readAfter o 0x0012 = some 0x2236D88FE5618CF0 := by decide
/-- AC10: CF is the carry-in. -/
theorem test_adcw_with_flag :
    let s := setCF (setW (setW base 0 0xFFFFFFFFFFFFFFFF) 1 0xFFFFFFFFFFFFFFFF) true
    readAfter (exec (.adcw 2 0 1 .flag) s) 0x0012 = some 0xFFFFFFFFFFFFFFFF ∧
    readAfter (exec (.adcw 2 0 1 .flag) s) 0x0002 = some 1 := by decide
/-- AC6: with cin = 0 the old CF is ignored. -/
theorem test_adcw_ignores_flag :
    let s := setCF (setW (setW base 0 0xFFFFFFFFFFFFFFFF) 1 0xFFFFFFFFFFFFFFFF) true
    readAfter (exec (.adcw 2 0 1 .zero) s) 0x0012 = some 0xFFFFFFFFFFFFFFFE := by decide
/-- SB7. -/
theorem test_sbbw_with_flag :
    let s := setCF (setW (setW base 0 5) 1 5) true
    readAfter (exec (.sbbw 2 0 1 .flag) s) 0x0012 = some 0xFFFFFFFFFFFFFFFF ∧
    readAfter (exec (.sbbw 2 0 1 .flag) s) 0x0002 = some 1 := by decide
/-- SB4: 0 - (2^64 - 1) - 1. -/
theorem test_sbbw_with_one :
    let s := setW base 1 0xFFFFFFFFFFFFFFFF
    readAfter (exec (.sbbw 2 0 1 .one) s) 0x0012 = some 0 ∧
    readAfter (exec (.sbbw 2 0 1 .one) s) 0x0002 = some 1 := by decide
/-- AD2: the carry goes into limb 1. -/
theorem test_add_carries :
    let o := exec (.add 0 1 2) (set2 base 1 0xFFFFFFFFFFFFFFFF 2 1)
    readAfter o 0x1000 = some 0 ∧ readAfter o 0x1001 = some 1 ∧ readAfter o 0x0002 = some 0 := by decide
/-- 96 section 2.1: doubling in place, overflowing. -/
theorem test_add_in_place :
    let o := exec (.add 1 1 1) (setB base 1 0x80000000000000000000000000000005)
    bigAfter o 1 = some 0xA ∧ readAfter o 0x0002 = some 1 := by decide
/-- SU7. -/
theorem test_sub_borrows :
    let o := exec (.sub 0 1 2)
      (set2 base 1 0x0123456789ABCDEFFEDCBA9876543210 2 0xFEDCBA98765432100123456789ABCDEF)
    bigAfter o 0 = some 0x02468ACF13579BDFFDB97530ECA86421 ∧ readAfter o 0x0002 = some 1 := by decide
/-- CP7: a value with its top bit set is large. -/
theorem test_cmp_is_unsigned :
    readAfter (exec (.cmp 1 2)
      (set2 base 1 0x80000000000000000000000000000000 2 0x7FFFFFFFFFFFFFFFFFFFFFFFFFFFFFFF)) 0x0002 = some 4 := by
  decide
/-- 96 section 2.3: CF is kept beside ORD. -/
theorem test_cmp_keeps_carry :
    readAfter (exec (.cmp 1 2) (setCF (set2 base 1 0 2 1) true)) 0x0002 = some 3 := by decide
/-- 96 section 2.4: sources inside the destination pair. -/
theorem test_mulf_in_place :
    let o := exec (.mulf 0 0 1)
      (set2 base 0 0xFFFFFFFFFFFFFFFF0000000000000003 1 0x8000000000000000000000000000000B)
    bigAfter o 1 = some 0x7FFFFFFFFFFFFFFF800000000000000C ∧
    bigAfter o 0 = some 0x7FFFFFFFFFFFFFF50000000000000021 := by decide
/-- SH6 and SH12. -/
theorem test_shl :
    let s := setB base 1 0x8000000000000001C00000000000000F
    bigAfter (exec (.shl 0 1 0) (setW s 0 0x41)) 0 = some 0x800000000000001E0000000000000000 ∧
    bigAfter (exec (.shl 0 1 0) (setW s 0 0xFFFFFFFFFFFFFFFF)) 0 = some 0 := by decide
/-- SH4 and SH8. -/
theorem test_shr :
    let s := setB base 1 0x8000000000000001C00000000000000F
    bigAfter (exec (.shr 0 1 0) (setW s 0 0x3F)) 0 = some 0x00000000000000010000000000000003 ∧
    bigAfter (exec (.shr 0 1 0) (setW s 0 0x80)) 0 = some 0 := by decide
/-- SM7. -/
theorem test_setmod :
    let o := exec (.setmod 0) (setB base 0 0x7FFFFFFFFFFFFFFFFFFFFFFFFFFFFFFF)
    readAfter o 0x2100 = some 1 ∧ readAfter o 0x2101 = some 0x8000000000000000 ∧
    readAfter o 0x0004 = some 0x20001 ∧ readAfter o 0x0001 = some 2 := by decide
/-- 97 section 1.1: a failed SETMOD keeps the former context. -/
theorem test_setmod_even :
    let o := exec (.setmod 0) (setB withCtx 0 1000)
    readAfter o 0x0001 = some 0x402 ∧ readAfter o 0x2000 = some 0xCA1 ∧ readAfter o 0x0004 = some 0x10001 := by
  decide
/-- TM4 and TM11: a value at or above N is reduced. -/
theorem test_tomont :
    bigAfter (exec (.tomont 2 1) (setB withCtx 1 42)) 2 = some 1160 ∧
    bigAfter (exec (.tomont 2 1) (setB withCtx 1 3275)) 2 = some 1160 := by decide
/-- MM5. -/
theorem test_montmul : bigAfter (exec (.montmul 3 1 2) (set2 withCtx 1 1160 2 2454)) 3 = some 2845 := by
  decide
/-- MM12. -/
theorem test_montmul_out_of_range :
    let o := exec (.montmul 3 1 2) (set2 withCtx 1 1 2 3233)
    readAfter o 0x0001 = some 0x202 ∧ bigAfter o 3 = some 0 := by decide
/-- FM4 and FM8. -/
theorem test_frommont :
    bigAfter (exec (.frommont 4 3) (setB withCtx 3 1160)) 4 = some 42 ∧
    readAfter (exec (.frommont 4 3) (setB withCtx 3 3233)) 0x0001 = some 0x202 := by decide
/-- E1 and E3. -/
theorem test_modexp :
    bigAfter (exec (.modexp 3 1 2) (set2 withCtx 1 42 2 17)) 3 = some 2557 ∧
    bigAfter (exec (.modexp 3 1 2) (set2 withCtx 1 3275 2 17)) 3 = some 2557 := by decide
/-- E12: all 128 bits of the exponent set. -/
theorem test_modexp_wide_exponent :
    bigAfter (exec (.modexp 3 1 2) (set2 withCtx 1 2 2 0xFFFFFFFFFFFFFFFFFFFFFFFFFFFFFFFF)) 3 = some 2390 := by
  decide +kernel
/-- RS2. -/
theorem test_rsat : bigAfter (exec (.rsat 3 1 2) (set2 withCtx 1 2557 2 2753)) 3 = some 42 := by decide
/-- RS8: message at N. -/
theorem test_rsat_out_of_range :
    readAfter (exec (.rsat 3 1 2) (set2 withCtx 1 3233 2 17)) 0x0001 = some 0x202 := by decide
/-- PR10: the registers and the context are gone. -/
theorem test_zeroize :
    let o := exec .zeroize (setCF (setW (setB withCtx 1 42) 3 9) true)
    readAfter o 0x0001 = some 0 ∧ readAfter o 0x0002 = some 0 ∧ readAfter o 0x0013 = some 0 ∧
    readAfter o 0x1100 = some 0 ∧ readAfter o 0x2000 = some 0 := by decide

/-! ### The port, the engine's schedule and reset (97 section 4) -/

/-- 97 section 4.1: CAP for L = 2, 32, 256. -/
theorem test_cap :
    portRead base 0x0003 = 0x01880002 ∧ portRead State.reset 0x0003 = 0x01880020 ∧
    portRead (State.resetOf 256) 0x0003 = 0x01880100 := by decide
/-- PT2, PT6 to PT8. -/
theorem test_port_writes :
    portRead (portWrite base 0x0017 0xBBBB) 0x0017 = 0xBBBB ∧ portWrite base 0x1002 3 = base ∧
    valB (portWrite base 0x1701 9) 7 = 0x00000000000000090000000000000000 := by decide
/-- 97 section 4.3, steps 1 to 3: the read of B3 sent while BUSY = 1 is held until the completion. -/
theorem test_held_read :
    let s := running (set2 withCtx 1 42 2 17) 0x31312000 1 [.txn (.read 0x1300)]
    (match Host.Core.run Sys2Proof.core 3 s with
      | .next t => some t.answers
      | _ => none) = some [.data 0x9FD] := by decide
/-- 97 section 4.3, step 2: STATUS is answered at once. -/
theorem test_status_while_busy :
    (stateAfter (step (running withCtx 0x31312000 1 [.txn (.read 0x0001)]))).map (·.answers)
      = some [.data 3] := by decide
/-- 97 section 4.4: reset before the completion. -/
theorem test_reset_while_busy :
    (stateAfter (step (running (setB withCtx 1 42) 0x31312000 1 [.reset]))).map (fun t => (t.busy, valB t 1, t.ctx.valid))
      = some (false, 0, false) := by decide
/-- The placed command is the next step's completion: ZEROIZE and, at an even modulus, SETMOD (PR6). -/
theorem test_withFetchWord :
    readAfter (step (State.reset.withFetchWord 32 0x20000000)) 0x0001 = some 0x400 ∧
    readAfter (step (State.reset.withFetchWord 32 0xF0000000)) 0x0001 = some 0 ∧
    decodeTableWord 32 0x12070000 = some (.cmp 7 0) := by decide

/-! ### Witnesses: for every statement with hypotheses, values that meet them, at the edges where a clause has a range -/

/-- A block of one limb after reset. -/
def one : State := State.resetOf 1

/-- A block of the largest capacity after reset. -/
def largest : State := State.resetOf 256

/-- The context of 3233 = 61 * 53 with message 3232, exponents 17 and 2753 (RPG's S9). -/
def rsaState : State := setB (setB (setB withCtx 0 3232) 1 17) 2 2753

/-- The context of modulus 1 (SM2). -/
def ctxOne : State := { base with ctx := buildCtx 2 1 }

/-- The context of the largest modulus of two limbs, 2^128 - 1 (SM6). -/
def ctxFull : State := { base with ctx := buildCtx 2 (2 ^ 128 - 1) }

theorem witness_DecodeOfEncodeIsIdentity :
    wellFormed (.mulw 7 4 6 5) = true ∧ wellFormed (.mulf 6 7 7) = true ∧ wellFormed .zeroize = true := by decide
theorem witness_DecodedValueIsTheEncoding :
    decode 0x01765400 = .ok (.mulw 7 4 6 5) ∧ decode 0xF0000000 = .ok .zeroize := by decide
theorem witness_DecodesExactlyWhenARowMatches :
    (matchesRow .cmp 0x12070000 = true ∧ opOf (.cmp 7 0) = .cmp ∧ decode 0x12070000 = .ok (.cmp 7 0)) ∧
    (matchesRow .mulw 0x01000000 = false ∧ decode 0x01000000 = .error .sameDestination) := by decide
theorem witness_MulwWritesTheProduct : (1 : WReg) ≠ 0 ∧ (0 : WReg) ≠ 7 := by decide
theorem witness_WordChainsAre128Bit : (4 : WReg) ≠ 1 ∧ (4 : WReg) ≠ 3 ∧ (4 : WReg) ≠ 5 := by decide
theorem witness_SubWritesWrappedDifference :
    (BanksOk base ∧ valB base 1 < valB (setB base 2 1) 2) ∧ BanksOk one ∧ BanksOk largest := by decide +kernel
theorem witness_MulfWritesBothHalves :
    wellFormed (.mulf 6 7 7) = true ∧ wellFormed (.mulf 0 0 1) = true ∧ BanksOk base := by decide
theorem witness_ShlShiftsWithinTheWidth :
    64 * base.nlimbs ≤ (getW (setW base 0 128) 0).toNat ∧ (getW (setW base 0 127) 0).toNat < 64 * base.nlimbs := by
  decide
theorem witness_ShrShiftsLogically :
    BanksOk base ∧ BanksOk (setW base 0 128) ∧ 64 * base.nlimbs ≤ (getW (setW base 0 128) 0).toNat ∧
    (getW (setW base 0 127) 0).toNat < 64 * base.nlimbs := by decide
theorem witness_RippleAndCompareEqualTheIntegers :
    ([0xFFFFFFFFFFFFFFFF, 1] : List Word).length = ([1, 0xFFFFFFFFFFFFFFFE] : List Word).length ∧
    rippleAdd [0xFFFFFFFFFFFFFFFF, 1] [1, 0xFFFFFFFFFFFFFFFE] false = ([0, 0], true) ∧
    rippleSub [0, 0] [1, 0] false = ([0xFFFFFFFFFFFFFFFF, 0xFFFFFFFFFFFFFFFF], true) ∧
    compareLimbs [1, 7] [2, 7] = .less ∧ compareLimbs [0, 1] [0xFFFFFFFFFFFFFFFF, 0] = .greater := by decide
/-- MF5 and MF3. -/
theorem witness_SchoolbookGivesTheProduct :
    ([0xFFFFFFFFFFFFFFFF, 0] : List Word).length = ([0xFFFFFFFFFFFFFFFF, 0] : List Word).length ∧
    schoolbook [0xFFFFFFFFFFFFFFFF, 0] [0xFFFFFFFFFFFFFFFF, 0] = [1, 0xFFFFFFFFFFFFFFFE, 0, 0] ∧
    schoolbook [0xFFFFFFFFFFFFFFFF, 0xFFFFFFFFFFFFFFFF] [0xFFFFFFFFFFFFFFFF, 0xFFFFFFFFFFFFFFFF] =
      [1, 0, 0xFFFFFFFFFFFFFFFE, 0xFFFFFFFFFFFFFFFF] := by decide
/-- SH6 by limbs, at the largest count too. -/
theorem witness_LimbShiftsEqualTheIntegers :
    let a : List Word := [0xC00000000000000F, 0x8000000000000001]
    (0x41 < 64 * a.length ∧ 127 < 64 * a.length ∧ 1 < a.length) ∧
    shlLimb a 0x41 1 = 0x800000000000001E ∧ shrLimb a 0x41 0 = 0x4000000000000000 := by decide
theorem witness_SubUndoesAdd : BanksOk base ∧ (1 : BReg) ≠ 2 := by decide
theorem witness_MontgomeryConstantIsSmallest :
    (0 < 1 ∧ limbCount 1 = 1) ∧ limbCount (2 ^ 64 - 1) = 1 ∧ limbCount (2 ^ 64) = 2 := by decide
/-- SM1 and SM5. -/
theorem witness_NPrimeIsTheNegatedInverse :
    (3233 % 2 = 1 ∧ nPrimeOf 3233 1 = 0x85BDA4F0669F289F) ∧
    ((2 ^ 64 + 1) % 2 = 1 ∧ nPrimeOf (2 ^ 64 + 1) 2 = 0xFFFFFFFFFFFFFFFF) := by decide
/-- MM4, with Rinv = 1689 (97 section 1.1), and the modulus 1. -/
theorem witness_MontMulIsTheModularProduct :
    (2 ^ (64 * 1) - 1 = 3233 * 0x85BDA4F0669F289F % 2 ^ (64 * 1) ∧ 3233 < 2 ^ (64 * 1) ∧ 1689 < 3233 ∧
      2 ^ (64 * 1) * 1689 % 3233 = 1 % 3233 ∧ montMul 3233 0x85BDA4F0669F289F 1 42 100 = 598) ∧
    (2 ^ (64 * 1) - 1 = 1 * 0xFFFFFFFFFFFFFFFF % 2 ^ (64 * 1) ∧ 2 ^ (64 * 1) * 0 % 1 = 1 % 1) := by decide
theorem witness_SetmodBuildsTheContext :
    (BanksOk (setB base 0 1) ∧ valB (setB base 0 1) 0 % 2 = 1) ∧
    (BanksOk (setB base 0 (2 ^ 128 - 1)) ∧ valB (setB base 0 (2 ^ 128 - 1)) 0 % 2 = 1) := by decide
theorem witness_SetmodRefusesEvenModuli : valB base 0 % 2 = 0 ∧ valB (setB withCtx 0 1000) 0 % 2 = 0 := by
  decide
theorem witness_context_hypotheses :
    (Inv withCtx ∧ withCtx.ctx.valid = true) ∧ (Inv ctxOne ∧ ctxOne.ctx.valid = true) ∧
    (Inv ctxFull ∧ ctxFull.ctx.valid = true) :=
  ⟨⟨by decide, rfl⟩, ⟨by decide, rfl⟩, ⟨by decide, rfl⟩⟩
theorem witness_TomontConvertsIn :
    (Inv withCtx ∧ withCtx.ctx.valid = true) ∧ (Inv ctxFull ∧ ctxFull.ctx.valid = true) :=
  ⟨⟨by decide, rfl⟩, ⟨by decide, rfl⟩⟩
theorem witness_MontmulMultiplies :
    let s := set2 withCtx 1 3232 2 3232
    (Inv s ∧ s.ctx.valid = true ∧ valB s 1 < val s.ctx.n ∧ valB s 2 < val s.ctx.n) ∧
    (Inv ctxOne ∧ valB ctxOne 1 < val ctxOne.ctx.n) :=
  ⟨⟨by decide, by decide⟩, ⟨by decide, by decide⟩⟩
theorem witness_FrommontConvertsOut :
    let s := setB withCtx 3 3232
    Inv s ∧ s.ctx.valid = true ∧ valB s 3 < val s.ctx.n := by decide
/-- A value equal to N on either side. -/
theorem witness_OutOfRangeOperandsAreRefused :
    let s := set2 withCtx 1 3233 2 1
    s.ctx.valid = true ∧ val s.ctx.n ≤ valB s 1 ∧ ¬ val s.ctx.n ≤ valB s 2 := by decide
theorem witness_MissingContextIsReported : base.ctx.valid = false := by decide
theorem witness_MontgomeryRoundTrip :
    Inv rsaState ∧ rsaState.ctx.valid = true ∧ (1 : BReg) ≠ 2 ∧ (2 : BReg) ≠ 3 := by decide
theorem witness_ModexpComputesThePower : Inv rsaState ∧ rsaState.ctx.valid = true := by decide
theorem witness_RsatComputesThePower :
    Inv rsaState ∧ rsaState.ctx.valid = true ∧ valB rsaState 0 < val rsaState.ctx.n := by decide
/-- X1 to X6: modulus 1, exponent 0, a base that is 0 modulo N, exponent 1, base 1. -/
theorem witness_ModexpEdgeCases :
    (Inv ctxOne ∧ ctxOne.ctx.valid = true ∧ val ctxOne.ctx.n = 1) ∧
    (Inv withCtx ∧ val withCtx.ctx.n ≠ 1 ∧ valB withCtx 2 = 0) ∧
    (let s := set2 withCtx 1 3233 2 1;
      Inv s ∧ valB s 1 % val s.ctx.n = 0 ∧ 1 ≤ valB s 2 ∧ valB s 2 = 1) ∧
    (let s := set2 withCtx 1 1 2 5;
      Inv s ∧ s.ctx.valid = true ∧ valB s 1 = 1) :=
  ⟨⟨by decide, by decide⟩, ⟨by decide, by decide⟩,
    ⟨by decide, by decide⟩, ⟨by decide, by decide⟩⟩
/-- The trace of 97 section 2.4. -/
theorem witness_EngineScheduleGivesThePower :
    2 ^ (64 * 1) - 1 = 3233 * 0x85BDA4F0669F289F % 2 ^ (64 * 1) ∧ 0 < 3233 ∧ 3233 < 2 ^ (64 * 1) ∧ 17 < 2 ^ (64 * 1) ∧
    modExpAlg 1 3233 0x85BDA4F0669F289F 1 42 17 = 2557 := by decide +kernel
theorem witness_RsaRoundTrip :
    (Inv rsaState ∧ rsaState.ctx.valid = true ∧ val rsaState.ctx.n = 61 * 53 ∧
      valB rsaState 1 * valB rsaState 2 % Nat.lcm (61 - 1) (53 - 1) = 1 % Nat.lcm (61 - 1) (53 - 1) ∧
      valB rsaState 0 < val rsaState.ctx.n) ∧
    Nat.Prime 61 ∧ Nat.Prime 53 ∧ (61 ≠ 53 ∧ 61 % 2 = 1 ∧ 53 % 2 = 1) ∧ (2 : BReg) ≠ 3 :=
  ⟨by decide, by norm_num, by norm_num, by decide, by decide⟩
theorem witness_ErrorsChangeNothingElse :
    (exec (.rsat 3 1 2) base = .next { base with err := .invalidOperand, busy := false }) ∧ ErrKind.invalidOperand ≠ .ok :=
  ⟨rfl, by decide⟩
/-- One command for each clause, at the edge of each range. -/
theorem witness_WhichCommandRaisesWhat :
    (stateAfter (exec (.tomont 2 1) base)).map (·.err) = some .invalidOperand ∧
    (stateAfter (exec (.setmod 0) base)).map (·.err) = some .nonInvertible ∧
    (stateAfter (exec (.montmul 3 1 2) (set2 withCtx 1 0 2 3233))).map (·.err) = some .valueOutOfRange ∧
    (stateAfter (exec (.frommont 3 1) (setB withCtx 1 3233))).map (·.err) = some .valueOutOfRange ∧
    (stateAfter (exec (.rsat 3 1 2) (setB withCtx 1 3233))).map (·.err) = some .valueOutOfRange ∧
    (stateAfter (exec (.rsat 3 1 2) (setB withCtx 1 3232))).map (·.err) = some .ok := by decide
/-- A command that writes no flag, and one that could but fails. -/
theorem witness_OnlyNamedCommandsWriteFlags :
    (writesCF (.cmp 0 1) = false ∧ writesOrd (.add 0 1 2) = false ∧ writesCtx (.tomont 0 1) = false) ∧
    exec (.setmod 0) base = .next { base with err := .nonInvertible, busy := false } := ⟨by decide, rfl⟩
theorem witness_CommandsWriteOnlyDestinations :
    (stateAfter (exec (.mulf 6 7 7) base)).isSome = true ∧ bigDests (.mulf 6 7 7) = [6, 7] := by decide
/-- ADD B0 may change the limbs of B0 and FLAGS; the limbs of B1 and a reserved address it may not. -/
theorem witness_OtherPortWordsKeepTheirValue :
    (stateAfter (exec (.add 0 1 2) base)).isSome = true ∧
    mayChange (.add 0 1 2) (portReg 2 0x1101) = false ∧ mayChange (.add 0 1 2) (portReg 2 0x1102) = false ∧
    mayChange (.add 0 1 2) (portReg 2 0x1001) = true ∧ mayChange (.add 0 1 2) (portReg 2 0x0002) = true := by
  decide
theorem witness_ResetMeetsTheInvariant : 1 ≤ 1 ∧ 256 ≤ 256 := by decide
/-- An issue, a completion, and an idle step. -/
theorem witness_StepKeepsTheInvariant :
    (let s := running (setB base 0 3233) 0x20000000 0 [];
      Inv s ∧ (stateAfter (step s)).map (·.ctx.valid) = some true) ∧
    (Inv { base with host := [.txn (.write 0x1001 5)] } ∧
      (stateAfter (step { base with host := [.txn (.write 0x1001 5)] })).map (valB · 0) = some (5 * 2 ^ 64)) ∧
    (Inv base ∧ step base = .next base) := ⟨by decide, by decide, by decide, rfl⟩
theorem witness_StepRunsTheDecodedCommand :
    let s := running withCtx 0x31312000 0 []
    s.busy = true ∧ s.work = 0 ∧ decode s.cmdr = .ok (.rsat 3 1 2) := by decide
theorem witness_IllegalValuesCompleteWithInvalidOperand :
    let s := running withCtx 0x31312004 0 []
    s.busy = true ∧ s.work = 0 ∧ (∀ i, decode s.cmdr ≠ .ok i) := by
  refine ⟨rfl, rfl, fun i h => ?_⟩
  rw [show decode (running withCtx 0x31312004 0 []).cmdr = .error .zField by decide] at h
  cases h
theorem witness_WriteOfCmdIssues :
    let s : State := { base with host := [.txn (.write 0x0000 0x31312000)] }
    s.busy = false ∧ s.held = none ∧ s.host = .txn (.write 0x0000 0x31312000) :: [] := by decide
theorem witness_NothingChangesWhileBusy :
    let s := running withCtx 0x31312000 1 [.txn (.write 0x1100 7)]
    s.busy = true ∧ s.work ≠ 0 ∧ s.host.head? ≠ some .reset := by decide
theorem witness_BusyPortHoldsTransactions :
    (let s := running withCtx 0x31312000 1 [.txn (.read 0x0001)];
      s.busy = true ∧ s.work ≠ 0 ∧ s.held = none ∧ s.host = .txn (.read 0x0001) :: []) ∧
    (let s := running withCtx 0x31312000 1 [.txn (.write 0x0000 0)];
      s.busy = true ∧ s.work ≠ 0 ∧ s.held = none ∧ Txn.write 0x0000 0 ≠ .read 0x0001 ∧
      s.host = .txn (.write 0x0000 0) :: []) ∧
    (let s : State := { running withCtx 0x31312000 1 [.txn (.read 0x0001)] with held := some (.write 0x1200 2753) };
      s.busy = true ∧ s.work ≠ 0 ∧ s.held = some (.write 0x1200 2753) ∧ s.host.head? ≠ some .reset) ∧
    (let s : State := { base with held := some (.read 0x1300) };
      s.busy = false ∧ s.held = some (.read 0x1300)) ∧
    (let s : State := { base with held := some (.write 0x1200 2753) };
      s.busy = false ∧ s.held = some (.write 0x1200 2753)) := by decide
theorem witness_ResetClearsTheBlock :
    (let s := running withCtx 0x31312000 1 [.reset];
      s.host = .reset :: [] ∧ s.busy = true ∧ s.work ≠ 0) ∧
    (let s : State := { withCtx with host := [.reset] };
      s.host = .reset :: [] ∧ s.busy = false ∧ s.held = none) := by decide
theorem witness_IdleBlockWaits : base.busy = false ∧ base.held = none ∧ base.host = [] := by decide
theorem witness_CompletionAlwaysComes :
    (running withCtx 0x31312000 5 [.txn (.read 0x1300), .txn (.read 0x1400)]).busy = true ∧
    NoReset [.txn (.read 0x1300), .txn (.read 0x1400)] := by
  unfold NoReset; decide
theorem witness_CommandsAreAtomic :
    let s : State := { withCtx with host := [.txn (.write 0x0000 0x31312000), .txn (.read 0x1300)] }
    s.busy = false ∧ s.held = none ∧ s.host = .txn (.write 0x0000 0x31312000) :: [.txn (.read 0x1300)] ∧
    NoReset [.txn (.read 0x1300)] ∧ decode 0x31312000 = .ok (.rsat 3 1 2) := by
  unfold NoReset; decide
/-- The same with a CMD value that spells no command (IL1). -/
theorem witness_CommandsAreAtomic_illegal :
    (let s : State := { withCtx with host := [.txn (.write 0x0000 0), .txn (.read 0x1300)] };
      s.busy = false ∧ s.held = none ∧ s.host = .txn (.write 0x0000 0) :: [.txn (.read 0x1300)] ∧
      NoReset [.txn (.read 0x1300)]) ∧ (∀ i, decode 0 ≠ .ok i) := by
  refine ⟨by unfold NoReset; decide, fun i h => ?_⟩
  rw [show decode 0 = .error .reservedOpcode by decide] at h
  cases h
theorem witness_PortReadsRegisters :
    (1 < base.nlimbs ∧ base.nlimbs ≤ 256) ∧ (255 < largest.nlimbs ∧ largest.nlimbs ≤ 256) ∧
    portRead (setB base 7 (5 * 2 ^ 64)) 0x1701 = 5 := by decide
theorem witness_PortWritesReplaceOneWord :
    (BanksOk base ∧ 1 < base.nlimbs ∧ base.nlimbs ≤ 256) ∧ (BanksOk one ∧ 0 < one.nlimbs) ∧
    (255 < largest.nlimbs ∧ largest.nlimbs ≤ 256) := by decide
/-- The first and last address of each reserved range at L = 2, and the read-only ones. -/
theorem witness_ReservedAndReadOnlyAddresses :
    ([0x0005, 0x000F, 0x0018, 0x0FFF, 0x1002, 0x17FF, 0x1800, 0x1FFF, 0x2002, 0x21FF, 0x2200, 0xFFFF] : List Addr).all
      (fun a => portRead withCtx a == 0 && portWrite withCtx a 7 == withCtx) = true ∧
    ([0x0001, 0x0004, 0x2000, 0x2101] : List Addr).all (fun a => portWrite withCtx a 7 == withCtx) = true ∧
    portRead withCtx 0x2000 = 0xCA1 := by decide
theorem witness_ReadOnlyWordFields :
    (withCtx.ctx.rl ≤ 256 ∧ portRead (running withCtx 0 1 []) 0x0001 = 3 ∧ portRead withCtx 0x0004 = 0x10001) ∧
    (1 ≤ one.nlimbs ∧ one.nlimbs ≤ 256) ∧ (1 ≤ largest.nlimbs ∧ largest.nlimbs ≤ 256) ∧
    portRead withCtx 0x0003 = 0x01880002 := by decide
theorem witness_ReadsAfterReset :
    portRead one 0x0003 = 0x01880001 ∧ portRead largest 0x0003 = 0x01880100 ∧ portRead one 0x1001 = 0 := by decide
/-- A read and a write of a B limb, and a write of CMD. -/
theorem witness_IdlePortPerformsTransactions :
    (let s : State := { withCtx with host := [.txn (.read 0x1300)] };
      s.busy = false ∧ s.held = none ∧ s.host = .txn (.read 0x1300) :: []) ∧
    (let s : State := { withCtx with host := [.txn (.write 0x1300 7), .reset] };
      s.busy = false ∧ s.held = none ∧ s.host = .txn (.write 0x1300 7) :: [.reset]) ∧
    (let s : State := { withCtx with host := [.txn (.write 0x0000 0xF0000000)] };
      s.busy = false ∧ s.held = none ∧ s.host = .txn (.write 0x0000 0xF0000000) :: []) := by decide
/-- 97 section 4.3: a write of B2 held while the first command runs is performed after its completion. -/
theorem test_held_write :
    let s := running (set2 withCtx 1 42 2 17) 0x31312000 1 [.txn (.write 0x1200 2753)]
    (match Host.Core.run Sys2Proof.core 3 s with
      | .next t => some (valB t 3, valB t 2, t.answers)
      | _ => none) = some (2557, 2753, [.ack]) := by decide

end Sys2Proof.Tests
end

section
/-! Every BigUint register reads as L zero limbs after reset (R22, R35), and with that the invariant holds there. -/

namespace Sys2Proof.Machine

@[simp] theorem getB_resetOf (L : Nat) (r : Fin 8) : getB (State.resetOf L) r = zeroLimbs L := by
  simp [getB]

theorem banksOk_resetOf (L : Nat) : BanksOk (State.resetOf L) := by
  intro r
  rw [getB_resetOf, length_zeroLimbs, resetOf_nlimbs]

theorem inv_resetOf {L : Nat} (hpos : 1 ≤ L) (hmax : L ≤ Config.maxLimbs) : Inv (State.resetOf L) := by
  have hctx : CtxOk (State.resetOf L).nlimbs (State.resetOf L).ctx := ctxOk_empty L
  have herr : (State.resetOf L).err ≠ .entropyExhausted := by simp
  exact ⟨⟨hpos, hmax⟩, banksOk_resetOf L, hctx, herr⟩

/-- Settles O43: after reset the registers are L zero limbs and the slot is the empty one, for any capacity in range;
the default capacity is one of these. -/
theorem resetMeetsTheInvariant : Obligations.ResetMeetsTheInvariant := by
  unfold Obligations.ResetMeetsTheInvariant
  have hdefault : 1 ≤ Config.defaultLimbs ∧ Config.defaultLimbs ≤ Config.maxLimbs := by decide
  exact ⟨inv_resetOf hdefault.1 hdefault.2, fun _ hpos hmax => inv_resetOf hpos hmax⟩

end Sys2Proof.Machine
end

section
/-! The constants of a context (R111, R112): the limb count of R, and Newton's iteration giving the inverse of an odd
modulus, hence N′. With them the slot that SETMOD builds meets the context invariant (R28). -/

namespace Sys2Proof.Machine

/-! ### Bit lengths and limb counts (R15, R111) -/

theorem lt_two_pow_bitlen (v : Nat) : v < 2 ^ bitlen v := by
  unfold bitlen
  split
  · simp [*]
  · exact Nat.lt_log2_self

theorem two_pow_bitlen_le {v : Nat} (hv : 0 < v) : 2 ^ bitlen v ≤ 2 * v := by
  have hlog : 2 ^ Nat.log2 v ≤ v := Nat.log2_self_le hv.ne'
  rw [bitlen, if_neg hv.ne', Nat.pow_succ]
  omega

theorem bitlen_le_of_lt {v k : Nat} (h : v < 2 ^ k) : bitlen v ≤ k := by
  unfold bitlen
  split
  · exact Nat.zero_le k
  · exact (Nat.log2_lt ‹_›).mpr h

theorem radix_mono {m n : Nat} (h : m ≤ n) : radix m ≤ radix n :=
  Nat.pow_le_pow_right (by decide) (Nat.mul_le_mul_left 64 h)

theorem lt_radix_limbCount (v : Nat) : v < radix (limbCount v) := by
  have hbits : bitlen v ≤ 64 * limbCount v := by unfold limbCount; omega
  exact (lt_two_pow_bitlen v).trans_le (Nat.pow_le_pow_right (by decide) hbits)

theorem radix_limbCount_le {v : Nat} (hv : 0 < v) : radix (limbCount v) ≤ 2 ^ 64 * v := by
  have hbits : 64 * limbCount v ≤ 63 + bitlen v := by unfold limbCount; omega
  calc radix (limbCount v) ≤ 2 ^ (63 + bitlen v) := Nat.pow_le_pow_right (by decide) hbits
    _ = 2 ^ 63 * 2 ^ bitlen v := Nat.pow_add ..
    _ ≤ 2 ^ 63 * (2 * v) := Nat.mul_le_mul_left _ (two_pow_bitlen_le hv)
    _ = 2 ^ 64 * v := by omega

theorem limbCount_pos {v : Nat} (hv : 0 < v) : 1 ≤ limbCount v := by
  simp only [limbCount, bitlen, if_neg hv.ne']
  omega

theorem limbCount_le {v L : Nat} (h : v < radix L) : limbCount v ≤ L := by
  have hbits : bitlen v ≤ 64 * L := bitlen_le_of_lt h
  unfold limbCount
  omega

/-! ### The inverse modulo R (R112) -/

/-- One Newton step squares the error 1 - N x modulo R. -/
theorem newton_step_modEq {N R : Nat} (hR : 0 < R) (x : Nat) :
    (1 - N * ((x * (2 + (R - N * x % R)) % R : Nat) : Int)) ≡ (1 - N * x) ^ 2 [ZMOD R] := by
  have hle : N * x % R ≤ R := (Nat.mod_lt _ hR).le
  have hmod : ((x * (2 + (R - N * x % R)) % R : Nat) : Int) ≡ x * (2 - N * x) [ZMOD R] := by
    push_cast [hle]
    calc (x * (2 + (R - N * x % R)) % R : Int) ≡ x * (2 + (R - N * x % R)) [ZMOD R] := Int.mod_modEq _ _
      _ ≡ x * (2 + (0 - N * x)) [ZMOD R] := by
          gcongr
          · simp [Int.ModEq]
          · exact Int.mod_modEq _ _
      _ = x * (2 - N * x) := by ring
  calc (1 - N * ((x * (2 + (R - N * x % R)) % R : Nat) : Int))
      ≡ 1 - N * (x * (2 - N * x)) [ZMOD R] := by gcongr
    _ = (1 - N * x) ^ 2 := by ring

/-- So k steps raise the error to the power 2^k. -/
theorem newton_modEq {N R : Nat} (hR : 0 < R) (k x : Nat) :
    (1 - N * (newton N R k x : Int)) ≡ (1 - N * x) ^ 2 ^ k [ZMOD R] := by
  induction k generalizing x with
  | zero => simp [newton, Int.ModEq.refl]
  | succ k ih =>
    calc (1 - N * (newton N R (k + 1) x : Int))
        ≡ (1 - N * ((x * (2 + (R - N * x % R)) % R : Nat) : Int)) ^ 2 ^ k [ZMOD R] := ih _
      _ ≡ ((1 - N * x) ^ 2) ^ 2 ^ k [ZMOD R] := (newton_step_modEq hR x).pow _
      _ = (1 - N * x) ^ 2 ^ (k + 1) := by rw [← pow_mul, Nat.pow_succ']

/-- The error of the start value 1 is even, and ceil(log2 (64 n)) squarings make it a multiple of R. -/
theorem mul_invModR_modEq_one {N n : Nat} (hN : N % 2 = 1) (hn : 1 ≤ n) :
    (N * invModR N n : Int) ≡ 1 [ZMOD radix n] := by
  have hstart : 1 % radix n = 1 := Nat.mod_eq_of_lt (Nat.one_lt_two_pow (by omega))
  have heven : (2 : Int) ∣ 1 - N * (1 : Nat) := by omega
  have hsteps : 64 * n ≤ 2 ^ bitlen (64 * n - 1) := by
    have := lt_two_pow_bitlen (64 * n - 1)
    omega
  have herror : (radix n : Int) ∣ (1 - N * (1 : Nat)) ^ 2 ^ bitlen (64 * n - 1) := by
    calc (radix n : Int) = 2 ^ (64 * n) := by simp [radix]
      _ ∣ 2 ^ 2 ^ bitlen (64 * n - 1) := pow_dvd_pow 2 hsteps
      _ ∣ _ := pow_dvd_pow_of_dvd heven _
  have hnewton := newton_modEq (N := N) (radix_pos n) (bitlen (64 * n - 1)) 1
  rw [invModR, hstart]
  exact Int.modEq_iff_dvd.mpr (Int.modEq_zero_iff_dvd.mp (hnewton.trans (Int.modEq_zero_iff_dvd.mpr herror)))

theorem newton_lt {N R : Nat} (hR : 0 < R) (k : Nat) {x : Nat} (hx : x < R) : newton N R k x < R := by
  induction k generalizing x with
  | zero => exact hx
  | succ k ih => exact ih (Nat.mod_lt _ hR)

theorem invModR_lt (N n : Nat) : invModR N n < radix n :=
  newton_lt (radix_pos n) _ (Nat.mod_lt _ (radix_pos n))

theorem nPrimeOf_lt (N n : Nat) : nPrimeOf N n < radix n := Nat.mod_lt _ (radix_pos n)

/-- N N′ ≡ −1 (mod R). -/
theorem mul_nPrimeOf_mod {N n : Nat} (hN : N % 2 = 1) (hn : 1 ≤ n) :
    N * nPrimeOf N n % radix n = radix n - 1 := by
  have hinv : N * invModR N n ≡ 1 [MOD radix n] := by
    have := mul_invModR_modEq_one hN hn
    exact Int.natCast_modEq_iff.mp (by exact_mod_cast this)
  have hpos : 0 < radix n := radix_pos n
  have hsum : N * nPrimeOf N n + 1 ≡ radix n - 1 + 1 [MOD radix n] :=
    calc N * nPrimeOf N n + 1
        ≡ N * (radix n - invModR N n) + N * invModR N n [MOD radix n] :=
          ((Nat.mod_modEq _ _).mul_left N).add hinv.symm
      _ = N * radix n := by rw [← Nat.mul_add, Nat.sub_add_cancel (invModR_lt N n).le]
      _ ≡ radix n [MOD radix n] := by simp [Nat.ModEq]
      _ = radix n - 1 + 1 := by omega
  exact Nat.mod_eq_of_modEq (Nat.ModEq.add_right_cancel' 1 hsum) (by omega)

/-! ### The context of SETMOD (R113) -/

/-- The slot that SETMOD builds from an odd modulus of L limbs meets the context invariant (R28). -/
theorem ctxOk_buildCtx {L N : Nat} (hodd : N % 2 = 1) (hlt : N < radix L) : CtxOk L (buildCtx L N) := by
  have hpos : 0 < N := by omega
  have hrl : limbCount N ≤ L := limbCount_le hlt
  have hN : val (buildCtx L N).n = N := val_limbs_of_lt L N hlt
  have hNp : val (buildCtx L N).np = nPrimeOf N (limbCount N) :=
    val_limbs_of_lt L _ ((nPrimeOf_lt N _).trans_le (radix_mono hrl))
  refine ⟨length_limbs L N, length_limbs L _, fun _ => ?_, fun hinvalid => by simp [buildCtx] at hinvalid⟩
  rw [hN, hNp]
  exact ⟨hodd, limbCount_pos hpos, hrl, rfl, lt_radix_limbCount N, radix_limbCount_le hpos,
    mul_nPrimeOf_mod hodd (limbCount_pos hpos), nPrimeOf_lt N _⟩

end Sys2Proof.Machine
end

section
/-! What a completion can do, said once for all sixteen commands (R90, R150, R156): it raises a code and writes nothing,
or it succeeds after writes to the places that the command may write. The frames and the writers of the flags follow. -/

namespace Sys2Proof.Machine

/-- `u` comes from `s` by writes that the command `i` may do: to its destinations (R90), to the flags and the slot where
it is one of their writers (R26, R27), the slot only as SETMOD builds it or ZEROIZE clears it. -/
inductive Writes (i : Instr) (s : State) : State → Prop where
  | none : Writes i s s
  | word {u : State} {r : Fin 8} (v : Word) (hr : r ∈ wordDests i) (hu : Writes i s u) : Writes i s (setW u r v)
  | big {u : State} {r : Fin 8} (v : Nat) (hr : r ∈ bigDests i) (hu : Writes i s u) : Writes i s (setB u r v)
  | carry {u : State} (c : Bool) (hi : writesCF i = true) (hu : Writes i s u) : Writes i s (setCF u c)
  | order {u : State} (o : Order) (hi : writesOrd i = true) (hu : Writes i s u) : Writes i s (setOrd u o)
  | slot {ra : BReg} (hi : i = .setmod ra) (hodd : valB s ra % 2 = 1) :
      Writes i s (setCtx s (buildCtx s.nlimbs (valB s ra)))
  | clear (hi : i = .zeroize) : Writes i s (clearAll s)

/-- The two ways a completion ends: an error, which writes nothing (R156) and is never code 3 (R153), or a success. -/
def Ends (i : Instr) (s t : State) : Prop :=
  (∃ k, k ≠ .ok ∧ k ≠ .entropyExhausted ∧ t = finish k s) ∨ (∃ u, Writes i s u ∧ t = finish .ok u)

theorem ends_of_succeed {i : Instr} {s t u : State} (hu : Writes i s u) (h : succeed u = .next t) : Ends i s t :=
  .inr ⟨u, hu, succeed_eq_next h⟩

theorem ends_of_succeed_setB {i : Instr} {s t : State} {rd : BReg} {v : Nat} (hrd : rd ∈ bigDests i)
    (h : succeed (setB s rd v) = .next t) : Ends i s t :=
  ends_of_succeed (.big v hrd .none) h

theorem ends_of_raise {i : Instr} {s t : State} {k : ErrKind} (hok : k ≠ .ok) (hres : k ≠ .entropyExhausted)
    (h : raise k s = .next t) : Ends i s t :=
  .inl ⟨k, hok, hres, raise_eq_next h⟩

theorem ends_of_needContext {i : Instr} {s t : State} {m : Res} (hm : m = .next t → Ends i s t)
    (h : needContext s m = .next t) : Ends i s t := by
  obtain ⟨-, hnext⟩ | ⟨-, rfl⟩ := needContext_eq_next h
  · exact hm hnext
  · exact .inl ⟨.invalidOperand, by decide, by decide, rfl⟩

/-- The range check of R117, R118 and R133, in front of the write of one BigUint register. -/
theorem ends_of_rangeCheck {i : Instr} {s t : State} {rd : BReg} {v : Nat} {p : Prop} [Decidable p]
    (hrd : rd ∈ bigDests i)
    (h : (if p then raise .valueOutOfRange s else succeed (setB s rd v)) = .next t) : Ends i s t := by
  split at h
  · exact ends_of_raise (by decide) (by decide) h
  · exact ends_of_succeed_setB hrd h

theorem ends_of_execSetmod {ra : BReg} {s t : State} (h : execSetmod ra s = .next t) : Ends (.setmod ra) s t := by
  unfold execSetmod at h
  split at h
  · exact ends_of_raise (by decide) (by decide) h
  · exact ends_of_succeed (.slot rfl (by omega)) h

/-- Every completion of a decoded command ends in one of the two ways. -/
theorem exec_ends {i : Instr} {s t : State} (h : exec i s = .next t) : Ends i s t := by
  cases i with
  | mulw rd rc ra rb => exact ends_of_succeed (.word _ (by simp [wordDests]) (.word _ (by simp [wordDests]) .none)) h
  | adcw rd ra rb c => exact ends_of_succeed (.carry _ rfl (.word _ (by simp [wordDests]) .none)) h
  | sbbw rd ra rb c => exact ends_of_succeed (.carry _ rfl (.word _ (by simp [wordDests]) .none)) h
  | add rd ra rb => exact ends_of_succeed (.carry _ rfl (.big _ (by simp [bigDests]) .none)) h
  | sub rd ra rb => exact ends_of_succeed (.carry _ rfl (.big _ (by simp [bigDests]) .none)) h
  | cmp ra rb => exact ends_of_succeed (.order _ rfl .none) h
  | mulf rd ra rb => exact ends_of_succeed (.big _ (by simp [bigDests]) (.big _ (by simp [bigDests]) .none)) h
  | shl rd ra rc => exact ends_of_succeed_setB (by simp [bigDests]) h
  | shr rd ra rc => exact ends_of_succeed_setB (by simp [bigDests]) h
  | setmod ra => exact ends_of_execSetmod h
  | tomont rd ra => exact ends_of_needContext (ends_of_succeed_setB (by simp [bigDests])) h
  | montmul rd ra rb => exact ends_of_needContext (ends_of_rangeCheck (by simp [bigDests])) h
  | frommont rd ra => exact ends_of_needContext (ends_of_rangeCheck (by simp [bigDests])) h
  | modexp rd ra rb => exact ends_of_needContext (ends_of_succeed_setB (by simp [bigDests])) h
  | rsat rd ra rb => exact ends_of_needContext (ends_of_rangeCheck (by simp [bigDests])) h
  | zeroize => exact ends_of_succeed (.clear rfl) h

/-! ### Frames -/

theorem frame_refl (s : State) (ws bs : List (Fin 8)) : Frame s s ws bs :=
  ⟨fun _ _ => rfl, fun _ _ => rfl, rfl, rfl, rfl, rfl, rfl, rfl, rfl⟩

theorem mem_allRegs (r : Fin 8) : r ∈ [0, 1, 2, 3, 4, 5, 6, (7 : Fin 8)] := by
  revert r; decide

/-- Permitted writes leave every register but the destinations, and the model's own fields (R90). -/
theorem Writes.frame {i : Instr} {s u : State} (h : Writes i s u) : Frame s u (wordDests i) (bigDests i) := by
  induction h with
  | none => exact frame_refl s _ _
  | @word u r v hr _ ih =>
    have hw : ∀ q, q ∉ wordDests i → getW (setW u r v) q = getW s q := fun q hq =>
      (getW_setW_ne u r q v (ne_of_mem_of_not_mem hr hq).symm).trans (ih.w q hq)
    exact { ih with w := hw }
  | @big u r v hr _ ih =>
    have hb : ∀ q, q ∉ bigDests i → getB (setB u r v) q = getB s q := fun q hq =>
      (getB_setB_ne u r q v (ne_of_mem_of_not_mem hr hq).symm).trans (ih.b q hq)
    exact { ih with b := hb }
  | carry c _ _ ih => exact { ih with }
  | order o _ _ ih => exact { ih with }
  | slot _ _ => exact { frame_refl s _ _ with }
  | clear hi =>
    subst hi
    have hw : ∀ q, q ∉ wordDests .zeroize → getW (clearAll s) q = getW s q :=
      fun q hq => absurd (mem_allRegs q) hq
    have hb : ∀ q, q ∉ bigDests .zeroize → getB (clearAll s) q = getB s q :=
      fun q hq => absurd (mem_allRegs q) hq
    exact { frame_refl s [] [] with w := hw, b := hb }

/-- The frame of every completion (R90, R156). -/
theorem exec_frame {i : Instr} {s t : State} (h : exec i s = .next t) : Frame s t (wordDests i) (bigDests i) := by
  obtain ⟨k, -, -, rfl⟩ | ⟨u, hu, rfl⟩ := exec_ends h
  · exact { frame_refl s _ _ with }
  · exact { hu.frame with }

/-! ### The writers of the flags and of the slot (R26, R27) -/

theorem Writes.cf {i : Instr} {s u : State} (h : Writes i s u) (hi : writesCF i = false) : u.cf = s.cf := by
  induction h with
  | carry _ hw => simp [hw] at hi
  | clear hz => simp [hz, writesCF] at hi
  | none | slot => rfl
  | word _ _ _ ih | big _ _ _ ih | order _ _ _ ih => exact ih

theorem Writes.ord {i : Instr} {s u : State} (h : Writes i s u) (hi : writesOrd i = false) : u.ord = s.ord := by
  induction h with
  | order _ hw => simp [hw] at hi
  | clear hz => simp [hz, writesOrd] at hi
  | none | slot => rfl
  | word _ _ _ ih | big _ _ _ ih | carry _ _ _ ih => exact ih

theorem Writes.ctx {i : Instr} {s u : State} (h : Writes i s u) (hi : writesCtx i = false) : u.ctx = s.ctx := by
  induction h with
  | slot hm => simp [hm, writesCtx] at hi
  | clear hz => simp [hz, writesCtx] at hi
  | none => rfl
  | word _ _ _ ih | big _ _ _ ih | carry _ _ _ ih | order _ _ _ ih => exact ih

/-- A part `f` of the state, which ERR and BUSY do not touch, is kept by a completion that fails, and by any completion
of a command whose permitted writes keep it (`p`: the command is not one of its writers). -/
theorem exec_keeps {α : Type} {f : State → α} {p : Prop} {i : Instr} {s t : State}
    (hfinish : ∀ k u, f (finish k u) = f u) (hwrites : ∀ u, Writes i s u → p → f u = f s)
    (h : exec i s = .next t) (hp : p ∨ t.err ≠ .ok) : f t = f s := by
  obtain ⟨k, -, -, rfl⟩ | ⟨u, hu, rfl⟩ := exec_ends h
  · exact hfinish k s
  · have hnot : p := hp.resolve_right (fun hne => hne rfl)
    exact (hfinish _ u).trans (hwrites u hu hnot)

/-- Settles O40: a completion that fails writes none of the three, and one that succeeds writes them only by the writes
its command may do. -/
theorem onlyNamedCommandsWriteFlags : Obligations.OnlyNamedCommandsWriteFlags := by
  unfold Obligations.OnlyNamedCommandsWriteFlags
  intro i s t h
  exact ⟨exec_keeps finish_cf (fun _ => Writes.cf) h, exec_keeps finish_ord (fun _ => Writes.ord) h,
    exec_keeps finish_ctx (fun _ => Writes.ctx) h⟩

end Sys2Proof.Machine
end

section
/-! The invariant along every step (R22, R28, R153), for a block of a fixed capacity (R36). -/

namespace Sys2Proof.Machine

/-- The invariant, in a block of capacity L. -/
def InvAt (L : Nat) (s : State) : Prop := Inv s ∧ s.nlimbs = L

theorem InvAt.banksOk {L : Nat} {s : State} (h : InvAt L s) : BanksOk s := by
  obtain ⟨⟨-, hbanks, -, -⟩, -⟩ := h
  exact hbanks

theorem InvAt.finish {L : Nat} {s : State} {k : ErrKind} (h : InvAt L s) (hk : k ≠ .entropyExhausted) :
    InvAt L (finish k s) := by
  obtain ⟨⟨hcap, hbanks, hctx, -⟩, hL⟩ := h
  exact ⟨⟨hcap, hbanks, hctx, hk⟩, hL⟩

theorem InvAt.setB {L : Nat} {s : State} (h : InvAt L s) (r : Fin 8) (v : Nat) : InvAt L (setB s r v) := by
  obtain ⟨⟨hcap, hbanks, hctx, herr⟩, hL⟩ := h
  exact ⟨⟨hcap, banksOk_setB s r v hbanks, hctx, herr⟩, hL⟩

theorem InvAt.setLimb {L : Nat} {s : State} (h : InvAt L s) (r : Fin 8) (j : Nat) (v : Word) :
    InvAt L (setLimb s r j v) := by
  obtain ⟨⟨hcap, hbanks, hctx, herr⟩, hL⟩ := h
  exact ⟨⟨hcap, banksOk_setLimb s r j v hbanks, hctx, herr⟩, hL⟩

theorem InvAt.setCtx {L : Nat} {s : State} {c : Ctx} (h : InvAt L s) (hc : CtxOk s.nlimbs c) :
    InvAt L (setCtx s c) := by
  obtain ⟨⟨hcap, hbanks, -, herr⟩, hL⟩ := h
  exact ⟨⟨hcap, hbanks, hc, herr⟩, hL⟩

theorem InvAt.clearAll {L : Nat} {s : State} (h : InvAt L s) : InvAt L (clearAll s) := by
  obtain ⟨⟨hcap, -, -, herr⟩, hL⟩ := h
  exact ⟨⟨hcap, banksOk_clearAll s, ctxOk_empty s.nlimbs, herr⟩, hL⟩

theorem InvAt.resetBlock {L : Nat} {s : State} (h : InvAt L s) : InvAt L (resetBlock s) :=
  h.clearAll.finish (k := .ok) (by decide)

/-! ### The port -/

theorem InvAt.portWrite {L : Nat} {s : State} (h : InvAt L s) (a : Addr) (v : Word) : InvAt L (portWrite s a v) := by
  unfold Machine.portWrite
  split
  case h_3 r j _ => exact h.setLimb r j v
  all_goals exact h

theorem InvAt.perform {L : Nat} {s : State} (h : InvAt L s) (tx : Txn) : InvAt L (perform s tx) := by
  cases tx with
  | read a => exact h
  | write a v => exact h.portWrite a v

theorem InvAt.idleTurn {L : Nat} {s : State} (h : InvAt L s) : InvAt L (idleTurn s) := by
  obtain ⟨tx, -, he⟩ | ⟨-, -, he⟩ | ⟨tx, es, -, -, he⟩ | ⟨es, -, -, he⟩ := idleTurn_cases s <;> rw [he]
  · exact InvAt.perform (s := { s with held := none }) h tx
  · exact h
  · exact InvAt.perform (s := { s with host := es }) h tx
  · exact InvAt.resetBlock (s := { s with host := es }) h

theorem InvAt.busyTurn {L : Nat} {s t : State} (h : InvAt L s) (ht : busyTurn s = some t) : InvAt L t := by
  obtain ⟨-, rfl | ⟨es, -, rfl⟩ | ⟨tx, es, -, -, -, rfl⟩ | ⟨tx, es, -, -, -, rfl⟩⟩ := busyTurn_cases ht
  · exact h
  · exact InvAt.resetBlock (s := { s with host := es }) h
  · exact InvAt.perform (s := { s with host := es, work := s.work - 1 }) h tx
  · exact h

/-! ### The completion -/

theorem InvAt.writes {L : Nat} {i : Instr} {s u : State} (h : InvAt L s) (hu : Writes i s u) : InvAt L u := by
  induction hu with
  | none => exact h
  | word _ _ _ ih | carry _ _ _ ih | order _ _ _ ih => exact ih
  | big v _ _ ih => exact ih.setB _ v
  | @slot ra _ hodd => exact h.setCtx (ctxOk_buildCtx hodd (valB_lt s ra h.banksOk))
  | clear _ => exact h.clearAll

theorem InvAt.exec {L : Nat} {i : Instr} {s t : State} (h : InvAt L s) (ht : exec i s = .next t) : InvAt L t := by
  obtain ⟨k, -, hk, rfl⟩ | ⟨u, hu, rfl⟩ := exec_ends ht
  · exact h.finish hk
  · exact (h.writes hu).finish (by decide)

theorem InvAt.completion {L : Nat} {s t : State} (h : InvAt L s) (ht : completion s = .next t) : InvAt L t := by
  obtain ⟨i, -, hexec⟩ | ⟨_, -, rfl⟩ := completion_cases ht
  · exact h.exec hexec
  · exact h.finish (by decide)

theorem InvAt.step {L : Nat} {s t : State} (h : InvAt L s) (ht : step s = .next t) : InvAt L t := by
  obtain ⟨-, rfl⟩ | ⟨-, hbusy⟩ | ⟨-, -, hdone⟩ := step_cases ht
  · exact h.idleTurn
  · exact h.busyTurn hbusy
  · exact h.completion hdone

/-- Settles O44: a turn of the port writes at most one limb or resets the block, and a completion writes registers of L
limbs, clears everything or, SETMOD, builds a context that meets R28. -/
theorem stepKeepsTheInvariant : Obligations.StepKeepsTheInvariant := by
  unfold Obligations.StepKeepsTheInvariant
  intro s t hinv hstep
  exact InvAt.step ⟨hinv, rfl⟩ hstep

end Sys2Proof.Machine
end

section
/-! The words of the port: what a register of the map reads, before and after a completion (R42, R90), at reset (R35),
and the fields of the read-only words (R26, R29 to R31). -/

namespace Sys2Proof.Machine

/-! ### Reads after a completion -/

/-- Settles O42: outside the words that the command may change, every word of the map reads a register, a flag, the slot
or the capacity that the completion leaves. -/
theorem otherPortWordsKeepTheirValue : Obligations.OtherPortWordsKeepTheirValue := by
  unfold Obligations.OtherPortWordsKeepTheirValue
  intro i s t a h hkeep
  have hframe := exec_frame h
  obtain ⟨hcf, hord, hctx⟩ := onlyNamedCommandsWriteFlags i s t h
  unfold portRead
  rw [hframe.nlimbs]
  cases hp : portReg s.nlimbs a with
  | cmd | reserved => rfl
  | status => simp [hp, mayChange] at hkeep
  | flags =>
    simp only [hp, mayChange, Bool.or_eq_false_iff] at hkeep
    obtain ⟨hnocf, hnoord⟩ := hkeep
    simp only [flagsWord, hcf (.inl hnocf), hord (.inl hnoord)]
  | cap => simp only [capWord, hframe.nlimbs]
  | ctxinfo =>
    simp only [hp, mayChange] at hkeep
    simp only [ctxInfoWord, hctx (.inl hkeep)]
  | word r =>
    have hr : r ∉ wordDests i := by simpa [hp, mayChange] using hkeep
    exact hframe.w r hr
  | limb r j =>
    have hr : r ∉ bigDests i := by simpa [hp, mayChange] using hkeep
    simp only [getLimb, hframe.b r hr]
  | ctxN j | ctxNP j =>
    simp only [hp, mayChange] at hkeep
    simp only [hctx (.inl hkeep)]

/-! ### Reads after reset -/

/-- CAP is the one word at address 3 (R42). -/
theorem portReg_eq_cap_iff (L : Nat) (a : Addr) : portReg L a = .cap ↔ a = 0x0003 := by
  constructor
  · intro h
    apply BitVec.eq_of_toNat_eq
    simp only [portReg, window] at h
    split_ifs at h
    assumption
  · rintro rfl
    rfl

@[simp] theorem getW_resetOf (L : Nat) (r : Fin 8) : getW (State.resetOf L) r = 0 := by
  simp [getW]

theorem getD_zeroLimbs (L j : Nat) : (zeroLimbs L).getD j 0 = 0 := by
  simp [zeroLimbs]

theorem portRead_resetOf_of_ne_cap {L : Nat} {a : Addr} (h : portReg L a ≠ .cap) :
    portRead (State.resetOf L) a = 0 := by
  unfold portRead
  rw [resetOf_nlimbs]
  cases hp : portReg L a with
  | cap => exact absurd hp h
  | cmd | status | flags | ctxinfo | reserved => rfl
  | word r => exact getW_resetOf L r
  | limb r j => simp only [getLimb, getB_resetOf, getD_zeroLimbs]
  | ctxN j | ctxNP j => exact getD_zeroLimbs L j

theorem portRead_cap (s : State) : portRead s 0x0003 = capWord s := rfl

/-- Settles O59: every word of the map but CAP reads a register, a flag or a slot that reset clears. -/
theorem readsAfterReset : Obligations.ReadsAfterReset := by
  unfold Obligations.ReadsAfterReset
  intro L a _ hmax
  split
  · next ha =>
    have hL : L % 2 ^ 16 = L := Nat.mod_eq_of_lt (by omega)
    rw [ha, portRead_cap, capWord, resetOf_nlimbs, hL]
    rfl
  · next ha => exact portRead_resetOf_of_ne_cap (mt (portReg_eq_cap_iff L a).mp ha)

/-! ### The fields of the read-only words -/

theorem portRead_status (s : State) : portRead s 0x0001 = statusWord s := rfl
theorem portRead_flags (s : State) : portRead s 0x0002 = flagsWord s := rfl
theorem portRead_ctxinfo (s : State) : portRead s 0x0004 = ctxInfoWord s := rfl

/-- A bit of a word that is given as a number. -/
theorem getLsbD_ofNat_eq {n k : Nat} {c : Bool} (hk : k < 64) (h : n / 2 ^ k % 2 = bit c) :
    (BitVec.ofNat 64 n).getLsbD k = c := by
  rw [BitVec.getLsbD_ofNat, decide_eq_true hk, Bool.true_and, Nat.testBit_eq_decide_div_mod_eq, h]
  cases c <;> rfl

/-- A field of a word that is given as a number. -/
theorem extractLsb'_ofNat_eq {n start len : Nat} (m : Nat) (h : n % 2 ^ 64 / 2 ^ start % 2 ^ len = m % 2 ^ len) :
    (BitVec.ofNat 64 n).extractLsb' start len = BitVec.ofNat len m := by
  apply BitVec.eq_of_toNat_eq
  rw [BitVec.extractLsb'_toNat, BitVec.toNat_ofNat, Nat.shiftRight_eq_div_pow, h, BitVec.toNat_ofNat]

theorem bit_le_one (c : Bool) : bit c ≤ 1 := by
  cases c <;> decide

theorem errCode_le (k : ErrKind) : errCode k ≤ 4 := by
  cases k <;> decide

theorem ordCode_le (o : Order) : ordCode o ≤ 2 := by
  cases o <;> decide

theorem statusWord_fields (s : State) :
    (statusWord s).getLsbD 0 = s.busy ∧ (statusWord s).getLsbD 1 = s.ctx.valid ∧
    (statusWord s).extractLsb' 2 6 = 0 ∧ (statusWord s).extractLsb' 8 4 = BitVec.ofNat 4 (errCode s.err) ∧
    (statusWord s).extractLsb' 12 52 = 0 := by
  have hbusy := bit_le_one s.busy
  have hvalid := bit_le_one s.ctx.valid
  have herr := errCode_le s.err
  exact ⟨getLsbD_ofNat_eq (by decide) (by omega), getLsbD_ofNat_eq (by decide) (by omega),
    extractLsb'_ofNat_eq 0 (by omega), extractLsb'_ofNat_eq _ (by omega), extractLsb'_ofNat_eq 0 (by omega)⟩

theorem flagsWord_fields (s : State) :
    (flagsWord s).getLsbD 0 = s.cf ∧ (flagsWord s).extractLsb' 1 2 = BitVec.ofNat 2 (ordCode s.ord) ∧
    (flagsWord s).extractLsb' 3 61 = 0 := by
  have hcf := bit_le_one s.cf
  have hord := ordCode_le s.ord
  exact ⟨getLsbD_ofNat_eq (by decide) (by omega), extractLsb'_ofNat_eq _ (by omega),
    extractLsb'_ofNat_eq 0 (by omega)⟩

theorem capWord_eq (s : State) :
    capWord s = BitVec.ofNat 64 (s.nlimbs % 2 ^ 16 + 2 ^ 16 * 8 + 2 ^ 20 * 8 + 2 ^ 24 * 1) := rfl

theorem capWord_fields (s : State) :
    (capWord s).extractLsb' 0 16 = BitVec.ofNat 16 s.nlimbs ∧ (capWord s).extractLsb' 16 4 = 8 ∧
    (capWord s).extractLsb' 20 4 = 8 ∧ (capWord s).extractLsb' 24 8 = 1 ∧ (capWord s).extractLsb' 32 32 = 0 := by
  rw [capWord_eq]
  exact ⟨extractLsb'_ofNat_eq _ (by omega), extractLsb'_ofNat_eq 8 (by omega), extractLsb'_ofNat_eq 8 (by omega),
    extractLsb'_ofNat_eq 1 (by omega), extractLsb'_ofNat_eq 0 (by omega)⟩

theorem ctxInfoWord_fields (s : State) :
    (ctxInfoWord s).getLsbD 0 = s.ctx.valid ∧ (ctxInfoWord s).extractLsb' 16 9 = BitVec.ofNat 9 s.ctx.rl ∧
    (ctxInfoWord s).extractLsb' 1 15 = 0 ∧ (ctxInfoWord s).extractLsb' 25 39 = 0 := by
  have hvalid := bit_le_one s.ctx.valid
  exact ⟨getLsbD_ofNat_eq (by decide) (by omega), extractLsb'_ofNat_eq _ (by omega),
    extractLsb'_ofNat_eq 0 (by omega), extractLsb'_ofNat_eq 0 (by omega)⟩

/-- A field wide enough for a number up to 256 holds that number. -/
theorem toNat_of_eq_ofNat {len n : Nat} {f : BitVec len} (hf : f = BitVec.ofNat len n) (hlen : 256 < 2 ^ len)
    (hn : n ≤ 256) : f.toNat = n := by
  rw [hf, BitVec.toNat_ofNat, Nat.mod_eq_of_lt (hn.trans_lt hlen)]

/-- Settles O58: each of the four words is a sum of its fields, each below the weight of the next. -/
theorem readOnlyWordFields : Obligations.ReadOnlyWordFields := by
  unfold Obligations.ReadOnlyWordFields
  intro s
  obtain ⟨hbusy, hctxv, hstatus2, herr, hstatus12⟩ := statusWord_fields s
  obtain ⟨hcf, hord, hflags3⟩ := flagsWord_fields s
  obtain ⟨hlimbs, hnb, hnw, hver, hcap32⟩ := capWord_fields s
  obtain ⟨hvalid, hrl, hinfo1, hinfo25⟩ := ctxInfoWord_fields s
  exact ⟨hbusy, hctxv, hstatus2, herr.trans (by cases s.err <;> rfl), hstatus12,
    hcf, hord.trans (by cases s.ord <;> rfl), hflags3,
    fun _ hmax => toNat_of_eq_ofNat hlimbs (by decide) hmax, hnb, hnw, hver, hcap32,
    hvalid, toNat_of_eq_ofNat hrl (by decide), hinfo1, hinfo25⟩

end Sys2Proof.Machine
end

section
/-! The port as the map of R42 lays it out: what each range of addresses names, what a read or a write of one word does
(R43, R44, R47, R48), and what a turn of the port does with a transaction while the block is idle or busy (R41, R49). -/

namespace Sys2Proof.Machine

/-! ### The ranges of the address map (R42) -/

section
variable {L : Nat} {a : Addr}

theorem portReg_word_range (hlo : 0x0010 ≤ a.toNat) (hhi : a.toNat < 0x0018) :
    portReg L a = .word ⟨a.toNat % 8, Nat.mod_lt _ (by decide)⟩ := by
  simp (disch := omega) only [portReg, if_neg, if_pos]

theorem portReg_limb_range (hlo : 0x1000 ≤ a.toNat) (hhi : a.toNat < 0x1800) :
    portReg L a = window L a.toNat (.limb (windowReg a.toNat) (a.toNat % 256)) := by
  simp (disch := omega) only [portReg, if_neg, if_pos]

theorem portReg_ctxN_range (hlo : 0x2000 ≤ a.toNat) (hhi : a.toNat < 0x2100) :
    portReg L a = window L a.toNat (.ctxN (a.toNat % 256)) := by
  simp (disch := omega) only [portReg, if_neg, if_pos]

theorem portReg_ctxNP_range (hlo : 0x2100 ≤ a.toNat) (hhi : a.toNat < 0x2200) :
    portReg L a = window L a.toNat (.ctxNP (a.toNat % 256)) := by
  simp (disch := omega) only [portReg, if_neg, if_pos]

/-- The gaps between the ranges, which are reserved whatever the capacity. -/
theorem portReg_gap (h : (0x0005 ≤ a.toNat ∧ a.toNat ≤ 0x000F) ∨ (0x0018 ≤ a.toNat ∧ a.toNat ≤ 0x0FFF) ∨
    (0x1800 ≤ a.toNat ∧ a.toNat ≤ 0x1FFF) ∨ 0x2200 ≤ a.toNat) : portReg L a = .reserved := by
  simp (disch := omega) only [portReg, if_neg]

end

theorem window_lt {L a : Nat} (reg : PortReg) (h : a % 256 < L) : window L a reg = reg := if_pos h

theorem window_ge {L a : Nat} (reg : PortReg) (h : L ≤ a % 256) : window L a reg = .reserved :=
  if_neg (Nat.not_lt.mpr h)

/-! ### The addresses of single registers (R42, R43, R44) -/

theorem toNat_addr {n : Nat} (h : n < 2 ^ 16) : (BitVec.ofNat 16 n).toNat = n :=
  (BitVec.toNat_ofNat n 16).trans (Nat.mod_eq_of_lt h)

theorem portReg_word (L : Nat) (i : Fin 8) : portReg L (BitVec.ofNat 16 (0x0010 + i.val)) = .word i := by
  have ha := toNat_addr (n := 0x0010 + i.val) (by omega)
  have hi : (0x0010 + i.val) % 8 = i.val := by omega
  rw [portReg_word_range (by omega) (by omega)]
  simp only [ha, hi]

section
variable {L j : Nat} (hj : j < L) (hL : L ≤ 256)
include hj hL

theorem portReg_limb (i : Fin 8) : portReg L (BitVec.ofNat 16 (0x1000 + 0x100 * i.val + j)) = .limb i j := by
  have ha := toNat_addr (n := 0x1000 + 0x100 * i.val + j) (by omega)
  have hlimb : (0x1000 + 0x100 * i.val + j) % 256 = j := by omega
  have hreg : windowReg (0x1000 + 0x100 * i.val + j) = i := Fin.ext (by simp only [windowReg]; omega)
  rw [portReg_limb_range (by omega) (by omega), ha, window_lt _ (by omega), hreg, hlimb]

theorem portReg_ctxN : portReg L (BitVec.ofNat 16 (0x2000 + j)) = .ctxN j := by
  have ha := toNat_addr (n := 0x2000 + j) (by omega)
  have hlimb : (0x2000 + j) % 256 = j := by omega
  rw [portReg_ctxN_range (by omega) (by omega), ha, window_lt _ (by omega), hlimb]

theorem portReg_ctxNP : portReg L (BitVec.ofNat 16 (0x2100 + j)) = .ctxNP j := by
  have ha := toNat_addr (n := 0x2100 + j) (by omega)
  have hlimb : (0x2100 + j) % 256 = j := by omega
  rw [portReg_ctxNP_range (by omega) (by omega), ha, window_lt _ (by omega), hlimb]

end

/-- Settles O55: each address is in the range of its register, and its low bits name the register and the limb. -/
theorem portReadsRegisters : Obligations.PortReadsRegisters := by
  unfold Obligations.PortReadsRegisters
  intro s i j hj hL
  simp only [portRead, portReg_word, portReg_limb hj hL, portReg_ctxN hj hL, portReg_ctxNP hj hL, getLimb,
    and_self]

/-! ### Writes of one word (R43, R47) -/

theorem portWrite_word (s : State) (i : Fin 8) (v : Word) :
    portWrite s (BitVec.ofNat 16 (0x0010 + i.val)) v = setW s i v := by
  simp only [portWrite, portReg_word]

theorem portWrite_limb {s : State} {j : Nat} (hj : j < s.nlimbs) (hL : s.nlimbs ≤ 256) (i : Fin 8) (v : Word) :
    portWrite s (BitVec.ofNat 16 (0x1000 + 0x100 * i.val + j)) v = setLimb s i j v := by
  simp only [portWrite, portReg_limb hj hL]

theorem frame_setW (s : State) (r : Fin 8) (v : Word) : Frame s (setW s r v) [r] [] :=
  { frame_refl s [] [] with w := fun q hq => getW_setW_ne s r q v (List.ne_of_not_mem_cons hq) }

theorem frame_setLimb (s : State) (r : Fin 8) (j : Nat) (v : Word) : Frame s (setLimb s r j v) [] [r] :=
  { frame_refl s [] [] with b := fun q hq => getB_setLimb_ne s r q j v (List.ne_of_not_mem_cons hq) }

theorem getLimb_setLimb_self {s : State} {r : Fin 8} {j : Nat} (hj : j < (getB s r).length) (v : Word) :
    getLimb (setLimb s r j v) r j = v := by
  simp [getLimb, hj]

theorem getLimb_setLimb_ne (s : State) (r : Fin 8) {j k : Nat} (hk : k ≠ j) (v : Word) :
    getLimb (setLimb s r j v) r k = getLimb s r k := by
  simp [getLimb, List.getElem?_set_ne hk.symm]

/-- Settles O56: such a write is `setW` of the register or `setLimb` of the limb that the address names. -/
theorem portWritesReplaceOneWord : Obligations.PortWritesReplaceOneWord := by
  unfold Obligations.PortWritesReplaceOneWord
  intro s t i j v hbanks hj hL
  constructor
  · rintro rfl
    rw [portWrite_word]
    exact ⟨getW_setW_self s i v, frame_setW s i v, rfl, rfl, rfl, rfl, rfl⟩
  · rintro rfl
    rw [portWrite_limb hj hL]
    have hlen : j < (getB s i).length := (hbanks i).symm ▸ hj
    exact ⟨getLimb_setLimb_self hlen v, fun k hk => getLimb_setLimb_ne s i hk v,
      banksOk_setLimb s i j v hbanks i, frame_setLimb s i j v, rfl, rfl, rfl, rfl, rfl⟩

/-! ### Reserved and read-only addresses (R47, R48) -/

/-- The port words on which a write has an effect: CMD, the W registers and the limbs of B (R47). -/
def writable : PortReg → Bool
  | .cmd | .word _ | .limb _ _ => true
  | .status | .flags | .cap | .ctxinfo | .ctxN _ | .ctxNP _ | .reserved => false

theorem portWrite_eq_self {s : State} {a : Addr} (v : Word) (h : writable (portReg s.nlimbs a) = false) :
    portWrite s a v = s := by
  unfold portWrite
  cases hp : portReg s.nlimbs a with
  | cmd | word | limb => simp [hp, writable] at h
  | status | flags | cap | ctxinfo | ctxN | ctxNP | reserved => rfl

theorem writable_window {L a : Nat} {reg : PortReg} (h : writable reg = false) :
    writable (window L a reg) = false := by
  unfold window
  split
  · exact h
  · rfl

/-- The words that only the engine writes: STATUS, FLAGS, CAP, CTXINFO and the two windows of the slot (R42). -/
theorem writable_portReg_readOnly (L : Nat) {a : Addr}
    (h : (0x0001 ≤ a.toNat ∧ a.toNat ≤ 0x0004) ∨ (0x2000 ≤ a.toNat ∧ a.toNat ≤ 0x21FF)) :
    writable (portReg L a) = false := by
  obtain ⟨hlo, hhi⟩ | ⟨hlo, hhi⟩ := h
  · interval_cases ha : a.toNat <;> simp [portReg, ha, writable]
  · obtain hn | hnp := Nat.lt_or_ge a.toNat 0x2100
    · rw [portReg_ctxN_range hlo hn]
      exact writable_window rfl
    · rw [portReg_ctxNP_range hnp (by omega)]
      exact writable_window rfl

/-- The reserved addresses (R42): the gaps, and in each window those past the last limb. -/
theorem portReg_reserved {L : Nat} {a : Addr}
    (h : (0x0005 ≤ a.toNat ∧ a.toNat ≤ 0x000F) ∨ (0x0018 ≤ a.toNat ∧ a.toNat ≤ 0x0FFF) ∨
      (0x1000 ≤ a.toNat ∧ a.toNat ≤ 0x17FF ∧ L ≤ a.toNat % 256) ∨
      (0x1800 ≤ a.toNat ∧ a.toNat ≤ 0x1FFF) ∨
      (0x2000 ≤ a.toNat ∧ a.toNat ≤ 0x21FF ∧ L ≤ a.toNat % 256) ∨ 0x2200 ≤ a.toNat) :
    portReg L a = .reserved := by
  obtain hgap | hgap | ⟨hlo, hhi, hpast⟩ | hgap | ⟨hlo, hhi, hpast⟩ | hgap := h
  · exact portReg_gap (.inl hgap)
  · exact portReg_gap (.inr (.inl hgap))
  · rw [portReg_limb_range hlo (by omega), window_ge _ hpast]
  · exact portReg_gap (.inr (.inr (.inl hgap)))
  · obtain hn | hnp := Nat.lt_or_ge a.toNat 0x2100
    · rw [portReg_ctxN_range hlo hn, window_ge _ hpast]
    · rw [portReg_ctxNP_range hnp (by omega), window_ge _ hpast]
  · exact portReg_gap (.inr (.inr (.inr hgap)))

theorem portRead_reserved {s : State} {a : Addr} (h : portReg s.nlimbs a = .reserved) : portRead s a = 0 := by
  rw [portRead, h]

theorem portRead_cmd (s : State) : portRead s 0x0000 = 0 := rfl

/-- Settles O57: neither a reserved word nor one that only the engine writes is writable. -/
theorem reservedAndReadOnlyAddresses : Obligations.ReservedAndReadOnlyAddresses := by
  unfold Obligations.ReservedAndReadOnlyAddresses
  intro s a v
  refine ⟨fun hreserved => ?_, fun hreadOnly => ?_, portRead_cmd s⟩
  · have hreg := portReg_reserved hreserved
    exact ⟨portRead_reserved hreg, portWrite_eq_self v (by rw [hreg]; rfl)⟩
  · exact portWrite_eq_self v (writable_portReg_readOnly s.nlimbs hreadOnly)

/-! ### Transactions in an idle block (R41, R47) -/

theorem step_of_idle {s : State} (h : s.busy = false) : step s = .next (idleTurn s) := by
  rw [step, turn, if_neg (by simp [h])]

theorem step_idle_held {s : State} {tx : Txn} (hbusy : s.busy = false) (hheld : s.held = some tx) :
    step s = .next (perform { s with held := none } tx) := by
  rw [step_of_idle hbusy, idleTurn, hheld]

theorem step_idle_txn {s : State} {tx : Txn} {es : List HostEvent} (hbusy : s.busy = false) (hheld : s.held = none)
    (hhost : s.host = .txn tx :: es) : step s = .next (perform { s with host := es } tx) := by
  rw [step_of_idle hbusy, idleTurn, hheld, hhost]

theorem portWrite_withHost (s : State) (es : List HostEvent) (a : Addr) (v : Word) :
    portWrite { s with host := es } a v = { portWrite s a v with host := es } := by
  unfold portWrite
  cases portReg s.nlimbs a <;> rfl

theorem portWrite_answers (s : State) (a : Addr) (v : Word) : (portWrite s a v).answers = s.answers := by
  unfold portWrite
  cases portReg s.nlimbs a <;> rfl

theorem perform_read (s : State) (a : Addr) :
    perform s (.read a) = { s with answers := s.answers ++ [.data (portRead s a)] } := rfl

theorem perform_write (s : State) (a : Addr) (v : Word) :
    perform s (.write a v) = { portWrite s a v with answers := s.answers ++ [.ack] } := by
  rw [perform, answer, portWrite_answers]

/-- Settles O60: the turn of the idle port performs the next transaction, and events and answers do not touch what a
read or a write does. -/
theorem idlePortPerformsTransactions : Obligations.IdlePortPerformsTransactions := by
  unfold Obligations.IdlePortPerformsTransactions
  refine ⟨fun s tx es => step_idle_txn, fun s a es hbusy hheld hhost => ?_,
    fun s a v es hbusy hheld hhost => ?_, perform_read, perform_write⟩
  · exact step_idle_txn hbusy hheld hhost
  · rw [step_idle_txn hbusy hheld hhost, perform_write, portWrite_withHost]

/-- Settles O48: the write of CMD is performed at once, and its effect is the issue. -/
theorem writeOfCmdIssues : Obligations.WriteOfCmdIssues := by
  unfold Obligations.WriteOfCmdIssues
  intro s v es hbusy hheld hhost
  exact ⟨answer (issue { s with host := es } v) .ack, step_idle_txn hbusy hheld hhost, rfl, rfl,
    ⟨rfl, rfl, rfl, rfl, rfl, rfl⟩, rfl, rfl, rfl, hheld⟩

/-! ### Transactions while a command runs (R49) -/

theorem sameRegisters_refl (s : State) : SameRegisters s s := ⟨rfl, rfl, rfl, rfl, rfl, rfl⟩

/-- With BUSY = 1 the step is the port's turn as long as it has one. -/
theorem step_of_busyTurn {s t : State} (hbusy : s.busy = true) (h : busyTurn s = some t) : step s = .next t := by
  rw [step, turn, if_pos hbusy, h]

section
variable {s : State} {tx : Txn} {es : List HostEvent} (hwork : s.work ≠ 0)
include hwork

theorem busyTurn_answered (hheld : s.held = none) (hhost : s.host = .txn tx :: es)
    (hstatus : answeredWhileBusy tx = true) :
    busyTurn s = some (perform { s with host := es, work := s.work - 1 } tx) := by
  rw [busyTurn, if_neg hwork, hhost, hheld]
  exact if_pos hstatus

theorem busyTurn_hold (hheld : s.held = none) (hhost : s.host = .txn tx :: es)
    (hother : answeredWhileBusy tx = false) :
    busyTurn s = some { s with host := es, work := s.work - 1, held := some tx } := by
  rw [busyTurn, if_neg hwork, hhost, hheld]
  exact if_neg (by simp [hother])

/-- While one is held the host can send no other. -/
theorem busyTurn_holding (hheld : s.held = some tx) (hreset : s.host.head? ≠ some .reset) :
    busyTurn s = some { s with work := s.work - 1 } := by
  rw [busyTurn, if_neg hwork]
  cases hhost : s.host with
  | nil => rfl
  | cons e es =>
    cases e with
    | txn tx' => simp only [hheld]
    | reset => simp [hhost] at hreset

end

theorem answeredWhileBusy_of_ne {tx : Txn} (h : tx ≠ .read 0x0001) : answeredWhileBusy tx = false :=
  beq_false_of_ne h

theorem statusWord_errCode (s : State) : ((statusWord s).extractLsb' 8 4).toNat = errCode s.err := by
  obtain ⟨-, -, -, herr, -⟩ := statusWord_fields s
  have hle := errCode_le s.err
  rw [herr, BitVec.toNat_ofNat, Nat.mod_eq_of_lt (by omega)]

/-- Settles O50: before the completion a turn of the port answers STATUS, holds the transaction or goes on holding;
after it the idle port performs the held one. -/
theorem busyPortHoldsTransactions : Obligations.BusyPortHoldsTransactions := by
  unfold Obligations.BusyPortHoldsTransactions
  refine ⟨fun s es hbusy hwork hheld hhost => ?_, fun s tx es hbusy hwork hheld hother hhost => ?_,
    fun s tx hbusy hwork hheld hreset => ?_, fun s tx => step_idle_held⟩
  · have hturn := busyTurn_answered hwork hheld hhost (by decide)
    obtain ⟨hbit0, hbit1, -, -, -⟩ := statusWord_fields s
    exact ⟨_, statusWord s, step_of_busyTurn hbusy hturn, ⟨sameRegisters_refl s, rfl, rfl⟩, hheld, rfl, rfl,
      hbit0.trans hbusy, hbit1, statusWord_errCode s⟩
  · have hturn := busyTurn_hold hwork hheld hhost (answeredWhileBusy_of_ne hother)
    exact ⟨_, step_of_busyTurn hbusy hturn, ⟨sameRegisters_refl s, rfl, rfl⟩, rfl, rfl, rfl⟩
  · have hturn := busyTurn_holding hwork hheld hreset
    exact ⟨_, step_of_busyTurn hbusy hturn, ⟨sameRegisters_refl s, rfl, rfl⟩, hheld, rfl, rfl⟩

end Sys2Proof.Machine
end

section
/-! The encoding (R60 to R69): the decoder accepts exactly the fields that its checks pass, and those are the fields that
the encoder gives a well-formed command. The match and mask columns of R65 say the same checks on the whole word. -/

namespace Sys2Proof

/-! ### What the decoder accepts (R65, R67, R69) -/

theorem unusedFieldsZero_iff {u : FieldUse} {f : Fields} :
    unusedFieldsZero u f = true ↔
      unusedIsZero u.rd f.rd = true ∧ unusedIsZero u.ra f.ra = true ∧ unusedIsZero u.rb f.rb = true ∧
      unusedIsZero u.rc f.rc = true ∧ (u.cin != .zero || f.cin == 0) = true := by
  simp only [unusedFieldsZero, Bool.and_eq_true, and_assoc]

theorem regsInRange_iff {u : FieldUse} {f : Fields} :
    regsInRange u f = true ↔
      regInRange u.rd f.rd = true ∧ regInRange u.ra f.ra = true ∧ regInRange u.rb f.rb = true ∧
      regInRange u.rc f.rc = true := by
  simp only [regsInRange, Bool.and_eq_true, and_assoc]

/-- The fields spell a command with the opcode: every check of R69 passes. -/
structure Legal (op : Op) (f : Fields) : Prop where
  opcode : f.op = opCode op
  z : f.z = 0
  unused : unusedFieldsZero (fieldUse op) f = true
  range : regsInRange (fieldUse op) f = true
  carry : (fieldUse op).cin = .carry → f.cin ≠ 3
  distinct : op = .mulw → f.rd ≠ f.rc
  even : op = .mulf → f.rd.getLsbD 0 = false

theorem Legal.decodeFields {op : Op} {f : Fields} (h : Legal op f) : decodeFields f = .ok (build op f) := by
  have hcarry : ¬((fieldUse op).cin = .carry ∧ f.cin = 3) := fun ⟨hci, h3⟩ => h.carry hci h3
  have hdistinct : ¬(op = .mulw ∧ f.rd = f.rc) := fun ⟨hop, heq⟩ => h.distinct hop heq
  have heven : ¬(op = .mulf ∧ f.rd.getLsbD 0 = true) := fun ⟨hop, hodd⟩ =>
    Bool.false_ne_true ((h.even hop).symm.trans hodd)
  simp only [Sys2Proof.decodeFields, h.opcode, opOfCode_opCode, h.z, h.unused, h.range]
  rw [if_neg hcarry, if_neg hdistinct, if_neg heven]
  rfl

theorem legal_of_decodeFields {f : Fields} {i : Instr} (h : decodeFields f = .ok i) :
    ∃ op, Legal op f ∧ i = build op f := by
  unfold decodeFields at h
  split at h
  · cases h
  · next op hop =>
    split_ifs at h with hz hunused hrange hcarry hdistinct heven
    cases h
    exact ⟨op,
      { opcode := (opCode_of_opOfCode f.op op hop).symm
        z := not_not.mp hz
        unused := by simpa using hunused
        range := by simpa using hrange
        carry := fun hci h3 => hcarry ⟨hci, h3⟩
        distinct := fun hmulw heq => hdistinct ⟨hmulw, heq⟩
        even := fun hmulf => Bool.eq_false_iff.mpr fun hodd => heven ⟨hmulf, hodd⟩ }, rfl⟩

/-- The decoder on a CMD value: the upper half is zero and the fields of the lower half are legal (R66, R69). -/
theorem decode_eq_ok_iff {v : Word} {i : Instr} :
    decode v = .ok i ↔ v.extractLsb' 32 32 = 0 ∧
      ∃ op, Legal op (fieldsOf (v.extractLsb' 0 32)) ∧ i = build op (fieldsOf (v.extractLsb' 0 32)) := by
  unfold decode
  constructor
  · intro h
    split_ifs at h with hhigh
    exact ⟨not_not.mp hhigh, legal_of_decodeFields h⟩
  · rintro ⟨hhigh, op, hlegal, rfl⟩
    rw [if_neg (not_not.mpr hhigh), hlegal.decodeFields]

@[simp] theorem opOf_build (op : Op) (f : Fields) : opOf (build op f) = op := by
  cases op <;> rfl

/-! ### The fields of a well-formed command (R62, R63, R65) -/

theorem nibble_injective : Function.Injective nibble := Function.LeftInverse.injective regOf_nibble

theorem nibble_getLsbD_zero (r : Fin 8) : (nibble r).getLsbD 0 = false ↔ r.val % 2 = 0 := by
  revert r; decide

theorem encodeFields_cin_ne_three (i : Instr) : (encodeFields i).cin ≠ 3 := by
  have hsel : ∀ c, selBits c ≠ 3 := by intro c; cases c <;> decide
  cases i with
  | adcw rd ra rb c | sbbw rd ra rb c => exact hsel c
  | _ => exact (by decide : (0 : BitVec 2) ≠ 3)

theorem encodeFits (i : Instr) : Laws.EncodeFits.Statement i :=
  match i with
  | .mulw rd rc ra rb => Laws.EncodeFits.mulw rd rc ra rb
  | .adcw rd ra rb c => Laws.EncodeFits.adcw rd ra rb c
  | .sbbw rd ra rb c => Laws.EncodeFits.sbbw rd ra rb c
  | .add rd ra rb => Laws.EncodeFits.add rd ra rb
  | .sub rd ra rb => Laws.EncodeFits.sub rd ra rb
  | .cmp ra rb => Laws.EncodeFits.cmp ra rb
  | .mulf rd ra rb => Laws.EncodeFits.mulf rd ra rb
  | .shl rd ra rc => Laws.EncodeFits.shl rd ra rc
  | .shr rd ra rc => Laws.EncodeFits.shr rd ra rc
  | .setmod ra => Laws.EncodeFits.setmod ra
  | .tomont rd ra => Laws.EncodeFits.tomont rd ra
  | .montmul rd ra rb => Laws.EncodeFits.montmul rd ra rb
  | .frommont rd ra => Laws.EncodeFits.frommont rd ra
  | .modexp rd ra rb => Laws.EncodeFits.modexp rd ra rb
  | .rsat rd ra rb => Laws.EncodeFits.rsat rd ra rb
  | .zeroize => Laws.EncodeFits.zeroize

/-- Well-formedness is the last two checks of R69, read off the fields of the command. -/
theorem wellFormed_iff (i : Instr) :
    wellFormed i = true ↔
      (opOf i = .mulw → (encodeFields i).rd ≠ (encodeFields i).rc) ∧
      (opOf i = .mulf → (encodeFields i).rd.getLsbD 0 = false) := by
  cases i with
  | mulw rd rc ra rb => simp [wellFormed, opOf, encodeFields, nibble_injective.eq_iff]
  | mulf rd ra rb =>
    have heven := nibble_getLsbD_zero rd
    simpa [wellFormed, opOf, encodeFields] using heven.symm
  | _ => simp [wellFormed, opOf]

theorem legal_encodeFields_iff (i : Instr) : Legal (opOf i) (encodeFields i) ↔ wellFormed i = true := by
  rw [wellFormed_iff]
  constructor
  · exact fun h => ⟨h.distinct, h.even⟩
  · rintro ⟨hdistinct, heven⟩
    obtain ⟨hop, hz, hunused, hrange⟩ := encodeFits i
    exact
      { opcode := (opCode_of_opOfCode _ _ hop).symm
        z := hz
        unused := hunused
        range := hrange
        carry := fun _ => encodeFields_cin_ne_three i
        distinct := hdistinct
        even := heven }

theorem build_encodeFields (i : Instr) : build (opOf i) (encodeFields i) = i := by
  cases i <;> simp only [opOf, build, encodeFields, regOf_nibble, selOf_selBits]

theorem fieldsOf_low_cmdValue (i : Instr) : fieldsOf ((cmdValue i).extractLsb' 0 32) = encodeFields i := by
  rw [low_cmdValue, encode, fieldsOf_wordOf]

/-- Settles O1: the fields of a well-formed command are legal, and the decoder builds the command from them. -/
theorem decodeOfEncodeIsIdentity : Obligations.DecodeOfEncodeIsIdentity := by
  unfold Obligations.DecodeOfEncodeIsIdentity
  intro i hwf
  have hlegal : Legal (opOf i) (encodeFields i) := (legal_encodeFields_iff i).mpr hwf
  rw [decode_eq_ok_iff, fieldsOf_low_cmdValue]
  exact ⟨high_cmdValue i, opOf i, hlegal, (build_encodeFields i).symm⟩

/-! ### Encoding what was decoded -/

/-- A register field after decoding and encoding: zero where unused, the number of its register elsewhere. -/
def recodeReg (u : Use) (n : BitVec 4) : BitVec 4 := if u = .zero then 0 else nibble (regOf n)

/-- The carry select after decoding and encoding. -/
def recodeSel (u : Use) (c : BitVec 2) : BitVec 2 := if u = .zero then 0 else selBits (selOf c)

theorem encodeFields_build (op : Op) (f : Fields) :
    encodeFields (build op f) =
      { op := opCode op
        rd := recodeReg (fieldUse op).rd f.rd
        ra := recodeReg (fieldUse op).ra f.ra
        rb := recodeReg (fieldUse op).rb f.rb
        rc := recodeReg (fieldUse op).rc f.rc
        z := 0
        cin := recodeSel (fieldUse op).cin f.cin } := by
  cases op <;> rfl

theorem recodeReg_eq {u : Use} {n : BitVec 4} (hunused : unusedIsZero u n = true) (hrange : regInRange u n = true) :
    recodeReg u n = n := by
  by_cases hu : u = .zero
  · have hn : n = 0 := by simpa [unusedIsZero, hu] using hunused
    rw [recodeReg, if_pos hu, hn]
  · rw [recodeReg, if_neg hu]
    exact nibble_regOf n (by simpa [regInRange, hu] using hrange)

theorem recodeSel_eq {op : Op} {c : BitVec 2} (hunused : ((fieldUse op).cin != .zero || c == 0) = true)
    (hcarry : (fieldUse op).cin = .carry → c ≠ 3) : recodeSel (fieldUse op).cin c = c := by
  have huse : (fieldUse op).cin = .zero ∨ (fieldUse op).cin = .carry := by cases op <;> decide
  obtain hzero | hci := huse
  · have hc : c = 0 := by simpa [hzero] using hunused
    rw [recodeSel, if_pos hzero, hc]
  · rw [recodeSel, if_neg (by simp [hci])]
    exact selBits_selOf c (hcarry hci)

theorem Legal.encodeFields_build {op : Op} {f : Fields} (h : Legal op f) : encodeFields (build op f) = f := by
  obtain ⟨hrd, hra, hrb, hrc, hcin⟩ := unusedFieldsZero_iff.mp h.unused
  obtain ⟨hrd7, hra7, hrb7, hrc7⟩ := regsInRange_iff.mp h.range
  rw [Sys2Proof.encodeFields_build, recodeReg_eq hrd hrd7, recodeReg_eq hra hra7, recodeReg_eq hrb hrb7,
    recodeReg_eq hrc hrc7, recodeSel_eq hcin h.carry, ← h.opcode, ← h.z]

theorem Legal.wellFormed_build {op : Op} {f : Fields} (h : Legal op f) : wellFormed (build op f) = true := by
  rw [← legal_encodeFields_iff, opOf_build, h.encodeFields_build]
  exact h

theorem Legal.encode_build {op : Op} {c : CmdWord} (h : Legal op (fieldsOf c)) :
    encode (build op (fieldsOf c)) = c := by
  rw [encode, h.encodeFields_build, wordOf_fieldsOf]

/-- Settles O2: the fields of a value that decodes are legal, and the encoder gives legal fields back. -/
theorem decodedValueIsTheEncoding : Obligations.DecodedValueIsTheEncoding := by
  unfold Obligations.DecodedValueIsTheEncoding
  intro v i h
  obtain ⟨hhigh, op, hlegal, rfl⟩ := decode_eq_ok_iff.mp h
  refine ⟨?_, hlegal.wellFormed_build⟩
  rw [cmdValue, hlegal.encode_build, cmdValue_of_high v hhigh]

/-! ### The match and mask columns (R65) -/

/-- The mask of a register field: every bit where it is unused, the top bit where it holds 0 .. 7. -/
def regMask (u : Use) : BitVec 4 := if u = .zero then 15 else 8

/-- The mask of `rd`: MULF's has the low bit too, for its `rd` is even. -/
def rdMask (op : Op) : BitVec 4 := if op = .mulf then 9 else regMask (fieldUse op).rd

/-- The mask of `cin`: every bit where it is unused. -/
def cinMask (u : Use) : BitVec 2 := if u = .zero then 3 else 0

/-- The mask column, cut into fields. -/
def maskFields (op : Op) : Fields :=
  { op := BitVec.allOnes 8
    rd := rdMask op
    ra := regMask (fieldUse op).ra
    rb := regMask (fieldUse op).rb
    rc := regMask (fieldUse op).rc
    z := BitVec.allOnes 6
    cin := cinMask (fieldUse op).cin }

theorem fieldsOf_rowMask (op : Op) : fieldsOf (rowMask op) = maskFields op := by
  cases op <;> decide

theorem fieldsOf_rowMatch (op : Op) : fieldsOf (rowMatch op) = blankFields op := by
  cases op <;> decide

theorem fieldsOf_injective : Function.Injective fieldsOf := Function.LeftInverse.injective wordOf_fieldsOf

theorem fieldsOf_and (c m : CmdWord) :
    fieldsOf (c &&& m) =
      { op := (fieldsOf c).op &&& (fieldsOf m).op
        rd := (fieldsOf c).rd &&& (fieldsOf m).rd
        ra := (fieldsOf c).ra &&& (fieldsOf m).ra
        rb := (fieldsOf c).rb &&& (fieldsOf m).rb
        rc := (fieldsOf c).rc &&& (fieldsOf m).rc
        z := (fieldsOf c).z &&& (fieldsOf m).z
        cin := (fieldsOf c).cin &&& (fieldsOf m).cin } := by
  simp only [fieldsOf, BitVec.extractLsb'_and]

/-- Matching a row is matching it field by field. -/
theorem and_rowMask_eq_rowMatch_iff (op : Op) (c : CmdWord) :
    c &&& rowMask op = rowMatch op ↔
      (fieldsOf c).op = opCode op ∧ (fieldsOf c).rd &&& rdMask op = 0 ∧
      (fieldsOf c).ra &&& regMask (fieldUse op).ra = 0 ∧ (fieldsOf c).rb &&& regMask (fieldUse op).rb = 0 ∧
      (fieldsOf c).rc &&& regMask (fieldUse op).rc = 0 ∧ (fieldsOf c).z = 0 ∧
      (fieldsOf c).cin &&& cinMask (fieldUse op).cin = 0 := by
  rw [← fieldsOf_injective.eq_iff, fieldsOf_and, fieldsOf_rowMask, fieldsOf_rowMatch]
  simp only [maskFields, blankFields, Fields.mk.injEq, BitVec.and_allOnes]

theorem and_regMask_eq_zero_iff (u : Use) (n : BitVec 4) :
    n &&& regMask u = 0 ↔ unusedIsZero u n = true ∧ regInRange u n = true := by
  cases u <;> revert n <;> decide

theorem and_rdMask_eq_zero_iff (op : Op) (n : BitVec 4) :
    n &&& rdMask op = 0 ↔
      (unusedIsZero (fieldUse op).rd n = true ∧ regInRange (fieldUse op).rd n = true) ∧
      (op = .mulf → n.getLsbD 0 = false) := by
  by_cases hop : op = .mulf
  · subst hop
    revert n
    decide
  · rw [rdMask, if_neg hop, and_regMask_eq_zero_iff]
    exact (and_iff_left fun hmulf => absurd hmulf hop).symm

theorem and_cinMask_eq_zero_iff (u : Use) (c : BitVec 2) :
    c &&& cinMask u = 0 ↔ (u != .zero || c == 0) = true := by
  cases u <;> revert c <;> decide

theorem furtherCondition_iff (op : Op) (c : CmdWord) :
    furtherCondition op c = true ↔
      ((fieldUse op).cin = .carry → (fieldsOf c).cin ≠ 3) ∧ (op = .mulw → (fieldsOf c).rd ≠ (fieldsOf c).rc) := by
  cases op <;> simp [furtherCondition, fieldUse]

theorem matchesRow_iff_legal (op : Op) (c : CmdWord) : matchesRow op c = true ↔ Legal op (fieldsOf c) := by
  rw [matchesRow, Bool.and_eq_true, beq_iff_eq, and_rowMask_eq_rowMatch_iff, furtherCondition_iff]
  simp only [and_rdMask_eq_zero_iff, and_regMask_eq_zero_iff, and_cinMask_eq_zero_iff]
  constructor
  · rintro ⟨⟨hop, ⟨⟨hrd, hrd7⟩, heven⟩, ⟨hra, hra7⟩, ⟨hrb, hrb7⟩, ⟨hrc, hrc7⟩, hz, hcin⟩, hcarry, hdistinct⟩
    exact
      { opcode := hop
        z := hz
        unused := unusedFieldsZero_iff.mpr ⟨hrd, hra, hrb, hrc, hcin⟩
        range := regsInRange_iff.mpr ⟨hrd7, hra7, hrb7, hrc7⟩
        carry := hcarry
        distinct := hdistinct
        even := heven }
  · rintro ⟨hop, hz, hunused, hrange, hcarry, hdistinct, heven⟩
    obtain ⟨hrd, hra, hrb, hrc, hcin⟩ := unusedFieldsZero_iff.mp hunused
    obtain ⟨hrd7, hra7, hrb7, hrc7⟩ := regsInRange_iff.mp hrange
    exact ⟨⟨hop, ⟨⟨hrd, hrd7⟩, heven⟩, ⟨hra, hra7⟩, ⟨hrb, hrb7⟩, ⟨hrc, hrc7⟩, hz, hcin⟩, hcarry, hdistinct⟩

/-- Settles O3: matching a row is passing the decoder's checks for its opcode. -/
theorem decodesExactlyWhenARowMatches : Obligations.DecodesExactlyWhenARowMatches := by
  unfold Obligations.DecodesExactlyWhenARowMatches
  intro v op
  rw [matchesRow_iff_legal]
  constructor
  · rintro ⟨i, hdecode, hop⟩
    obtain ⟨hhigh, op', hlegal, rfl⟩ := decode_eq_ok_iff.mp hdecode
    rw [opOf_build] at hop
    exact ⟨hhigh, hop ▸ hlegal⟩
  · rintro ⟨hhigh, hlegal⟩
    exact ⟨_, decode_eq_ok_iff.mpr ⟨hhigh, op, hlegal, rfl⟩, opOf_build op _⟩

/-- Settles O4: ten closed words, each run through the decoder. -/
theorem sampleWordsDecode : Obligations.SampleWordsDecode := by
  unfold Obligations.SampleWordsDecode
  decide

end Sys2Proof

namespace Sys2Proof.Machine

/-! ### Values that spell no command (R66) -/

/-- With BUSY = 1 and no latency left the step is the completion (R150). -/
theorem step_of_done {s : State} (hbusy : s.busy = true) (hwork : s.work = 0) : step s = completion s := by
  rw [step, turn, if_pos hbusy, busyTurn, if_pos hwork]

theorem completion_of_error {s : State} {e : Illegal} (h : decode s.cmdr = .error e) :
    completion s = .next (finish .invalidOperand s) := by
  rw [completion, h, raise]

/-- Settles O47: the decoder answers every value, so one that spells no command is rejected by name. -/
theorem illegalValuesCompleteWithInvalidOperand : Obligations.IllegalValuesCompleteWithInvalidOperand := by
  unfold Obligations.IllegalValuesCompleteWithInvalidOperand
  intro s hbusy hwork hillegal
  rw [step_of_done hbusy hwork]
  cases hdecode : decode s.cmdr with
  | ok i => exact absurd hdecode (hillegal i)
  | error e => exact completion_of_error hdecode

end Sys2Proof.Machine
end

section
/-! The word unit (R80 to R88): the three word functions are exact over the integers, the three commands write what they
give, and two commands that hand CF on compute on 128-bit values. -/

namespace Sys2Proof.Machine

/-! ### Flags as numbers -/

theorem bit_injective : Function.Injective bit := by decide

/-- The carry-out of a sum below twice the bound is the sum's quotient by the bound (R81). -/
theorem bit_carryOf {sum bound : Nat} (h : sum < 2 * bound) : bit (carryOf sum bound) = sum / bound := by
  by_cases hle : bound ≤ sum
  · have hquot : sum / bound = 1 := Nat.div_eq_of_lt_le (by omega) (by omega)
    simp [bit, carryOf, hle, hquot]
  · simp [bit, carryOf, hle, Nat.div_eq_of_lt (Nat.lt_of_not_le hle)]

theorem bit_borrowOf (a b : Nat) : bit (borrowOf a b) = if a < b then 1 else 0 := by
  simp [bit, borrowOf]

/-! ### The word functions (R80 to R82, R87) -/

theorem wideMultiply_high_toNat (a b : Word) : (wideMultiply a b).1.toNat = a.toNat * b.toNat / 2 ^ 64 := by
  have hprod : a.toNat * b.toNat < 2 ^ 64 * 2 ^ 64 := Nat.mul_lt_mul'' a.isLt b.isLt
  exact Nat.mod_eq_of_lt (Nat.div_lt_of_lt_mul hprod)

theorem wideMultiply_low_toNat (a b : Word) : (wideMultiply a b).2.toNat = a.toNat * b.toNat % 2 ^ 64 :=
  BitVec.toNat_ofNat ..

theorem wideMultiply_exact (a b : Word) :
    (wideMultiply a b).1.toNat * 2 ^ 64 + (wideMultiply a b).2.toNat = a.toNat * b.toNat := by
  rw [wideMultiply_high_toNat, wideMultiply_low_toNat, Nat.div_add_mod']

theorem addWithCarry_exact (a b : Word) (c : Bool) :
    (addWithCarry a b c).1.toNat + 2 ^ 64 * bit (addWithCarry a b c).2 = a.toNat + b.toNat + bit c := by
  have hbound : a.toNat + b.toNat + bit c < 2 * 2 ^ 64 := by
    have := bit_le_one c
    omega
  simp only [addWithCarry, bit_carryOf hbound, BitVec.toNat_ofNat, Nat.mod_add_div]

theorem subWithBorrow_exact (a b : Word) (c : Bool) :
    ((subWithBorrow a b c).1.toNat : Int) - 2 ^ 64 * bit (subWithBorrow a b c).2 = a.toNat - b.toNat - bit c := by
  have hbit := bit_le_one c
  have hb : b.toNat < 2 ^ 64 := b.isLt
  simp only [subWithBorrow, bit_borrowOf, BitVec.toNat_ofNat]
  split <;> omega

theorem addWithCarry_comm (a b : Word) (c : Bool) : addWithCarry a b c = addWithCarry b a c := by
  simp only [addWithCarry, Nat.add_comm a.toNat b.toNat]

theorem wideMultiply_comm (a b : Word) : wideMultiply a b = wideMultiply b a := by
  simp only [wideMultiply, Nat.mul_comm a.toNat b.toNat]

/-- The two exact equations leave one word and one flag: a word is below 2^64, so the carry and the borrow agree. -/
theorem subWithBorrow_addWithCarry (a b : Word) (c : Bool) :
    subWithBorrow (addWithCarry a b c).1 b c = (a, (addWithCarry a b c).2) := by
  have hadd := addWithCarry_exact a b c
  have hsub := subWithBorrow_exact (addWithCarry a b c).1 b c
  have hword : (subWithBorrow (addWithCarry a b c).1 b c).1.toNat = a.toNat := by omega
  have hflag : bit (subWithBorrow (addWithCarry a b c).1 b c).2 = bit (addWithCarry a b c).2 := by omega
  exact Prod.ext (BitVec.eq_of_toNat_eq hword) (bit_injective hflag)

/-- Settles O5: the laws of R87 follow from the exact equations of R80 to R82. -/
theorem wordFunctionsAreExact : Obligations.WordFunctionsAreExact := by
  unfold Obligations.WordFunctionsAreExact
  exact ⟨fun a b => ⟨wideMultiply_high_toNat a b, wideMultiply_low_toNat a b⟩, addWithCarry_exact, subWithBorrow_exact,
    addWithCarry_comm, wideMultiply_comm, subWithBorrow_addWithCarry⟩

/-! ### The word commands (R83 to R85) -/

theorem exec_mulw (rd rc ra rb : WReg) (s : State) :
    exec (.mulw rd rc ra rb) s =
      .next (finish .ok (setW (setW s rd (wideMultiply (getW s ra) (getW s rb)).1) rc
        (wideMultiply (getW s ra) (getW s rb)).2)) := rfl

theorem exec_adcw (rd ra rb : WReg) (c : CarrySel) (s : State) :
    exec (.adcw rd ra rb c) s =
      .next (finish .ok (setCF (setW s rd (addWithCarry (getW s ra) (getW s rb) (carryIn c s)).1)
        (addWithCarry (getW s ra) (getW s rb) (carryIn c s)).2)) := rfl

theorem exec_sbbw (rd ra rb : WReg) (c : CarrySel) (s : State) :
    exec (.sbbw rd ra rb c) s =
      .next (finish .ok (setCF (setW s rd (subWithBorrow (getW s ra) (getW s rb) (carryIn c s)).1)
        (subWithBorrow (getW s ra) (getW s rb) (carryIn c s)).2)) := rfl

/-- Settles O6: `rd` keeps the high half when the low half is written, because the destinations differ. -/
theorem mulwWritesTheProduct : Obligations.MulwWritesTheProduct := by
  unfold Obligations.MulwWritesTheProduct
  intro s rd rc ra rb hne
  have hexec := exec_mulw rd rc ra rb s
  refine ⟨_, hexec, ?_, rfl, rfl, rfl, ⟨rfl, rfl⟩, exec_frame hexec⟩
  rw [getW_finish, getW_finish, getW_setW_ne _ _ _ _ hne, getW_setW_self, getW_setW_self]
  exact wideMultiply_exact (getW s ra) (getW s rb)

/-- Settles O7: the written word and CF are the two results of `addWithCarry`, whatever the carry select. -/
theorem adcwAddsWithSelectedCarry : Obligations.AdcwAddsWithSelectedCarry := by
  unfold Obligations.AdcwAddsWithSelectedCarry
  intro s rd ra rb c
  have hexec := exec_adcw rd ra rb c s
  refine ⟨_, hexec, ?_, rfl, rfl, ⟨rfl, rfl⟩, exec_frame hexec⟩
  rw [getW_finish, getW_setCF, getW_setW_self, finish_cf, setCF_cf, addWithCarry_exact]
  cases c <;> rfl

/-- Settles O8: the written word and CF are the two results of `subWithBorrow`, whatever the borrow select. -/
theorem sbbwSubtractsWithSelectedBorrow : Obligations.SbbwSubtractsWithSelectedBorrow := by
  unfold Obligations.SbbwSubtractsWithSelectedBorrow
  intro s rd ra rb c
  have hexec := exec_sbbw rd ra rb c s
  refine ⟨_, hexec, ?_, rfl, rfl, ⟨rfl, rfl⟩, exec_frame hexec⟩
  rw [getW_finish, getW_setCF, getW_setW_self, finish_cf, setCF_cf, subWithBorrow_exact]
  cases c <;> rfl

/-! ### Chains of two commands (R88) -/

theorem Frame.getW_of_ne {s t : State} {r q : WReg} (h : Frame s t [r] []) (hne : r ≠ q) : getW t q = getW s q :=
  h.w q (by simpa using hne.symm)

/-- Settles O9: the first command leaves the sources of the second, the second leaves the low word, and CF carries from
the one exact equation into the other. -/
theorem wordChainsAre128Bit : Obligations.WordChainsAre128Bit := by
  unfold Obligations.WordChainsAre128Bit
  intro s lo hi alo ahi blo bhi hahi hbhi hhi
  constructor
  · obtain ⟨t, ht, hlow, -, -, -, hfirst⟩ := adcwAddsWithSelectedCarry s lo alo blo .zero
    obtain ⟨u, hu, hhigh, -, -, -, hsecond⟩ := adcwAddsWithSelectedCarry t hi ahi bhi .flag
    refine ⟨t, u, ht, hu, ?_⟩
    rw [hfirst.getW_of_ne hahi, hfirst.getW_of_ne hbhi] at hhigh
    rw [hsecond.getW_of_ne hhi.symm]
    dsimp only at hlow hhigh
    omega
  · obtain ⟨t, ht, hlow, -, -, -, hfirst⟩ := sbbwSubtractsWithSelectedBorrow s lo alo blo .zero
    obtain ⟨u, hu, hhigh, -, -, -, hsecond⟩ := sbbwSubtractsWithSelectedBorrow t hi ahi bhi .flag
    refine ⟨t, u, ht, hu, ?_⟩
    rw [hfirst.getW_of_ne hahi, hfirst.getW_of_ne hbhi] at hhigh
    rw [hsecond.getW_of_ne hhi.symm]
    dsimp only at hlow hhigh
    omega

end Sys2Proof.Machine
end

section
/-! The BigUint commands (R90 to R97, R99): each completes with the value of its rule, and the frame is the one of every
command. -/

namespace Sys2Proof.Machine

/-- Settles O41: the frame of every completion. -/
theorem commandsWriteOnlyDestinations : Obligations.CommandsWriteOnlyDestinations := by
  unfold Obligations.CommandsWriteOnlyDestinations
  exact fun _ _ _ => exec_frame

/-! ### Flags (R91 to R93) -/

theorem carryOf_eq_true_iff (sum bound : Nat) : carryOf sum bound = true ↔ bound ≤ sum := decide_eq_true_iff

theorem borrowOf_eq_true_iff (a b : Nat) : borrowOf a b = true ↔ a < b := decide_eq_true_iff

theorem compareInts_cases (a b : Nat) :
    (a = b ∧ compareInts a b = .equal) ∨ (a < b ∧ compareInts a b = .less) ∨
      (b < a ∧ compareInts a b = .greater) := by
  unfold compareInts
  split_ifs with heq hlt
  · exact .inl ⟨heq, rfl⟩
  · exact .inr (.inl ⟨hlt, rfl⟩)
  · exact .inr (.inr ⟨by omega, rfl⟩)

@[simp] theorem compareInts_eq_equal_iff (a b : Nat) : compareInts a b = .equal ↔ a = b := by
  obtain ⟨h, ho⟩ | ⟨h, ho⟩ | ⟨h, ho⟩ := compareInts_cases a b <;> simp [ho] <;> omega

@[simp] theorem compareInts_eq_less_iff (a b : Nat) : compareInts a b = .less ↔ a < b := by
  obtain ⟨h, ho⟩ | ⟨h, ho⟩ | ⟨h, ho⟩ := compareInts_cases a b <;> simp [ho] <;> omega

@[simp] theorem compareInts_eq_greater_iff (a b : Nat) : compareInts a b = .greater ↔ b < a := by
  obtain ⟨h, ho⟩ | ⟨h, ho⟩ | ⟨h, ho⟩ := compareInts_cases a b <;> simp [ho] <;> omega

/-! ### The wrapped difference (R92) -/

/-- The value that SUB writes (`exec_sub`): a - b modulo the radix R, for operands below R. -/
def wrapSub (R a b : Nat) : Nat := if b ≤ a then a - b else a + R - b

theorem wrapSub_lt {R a b : Nat} (ha : a < R) : wrapSub R a b < R := by
  unfold wrapSub
  split <;> omega

theorem wrapSub_eq_emod {R a b : Nat} (ha : a < R) (hb : b < R) : (wrapSub R a b : Int) = (a - b) % R := by
  unfold wrapSub
  split
  · rw [Int.emod_eq_of_lt (by omega) (by omega)]
    omega
  · rw [← Int.add_emod_right, Int.emod_eq_of_lt (by omega) (by omega)]
    omega

/-- The wrapped sum less one summand is the other, and borrows exactly when the sum wrapped (R99). -/
theorem wrapSub_wrappedSum {R a b : Nat} (ha : a < R) (hb : b < R) :
    wrapSub R ((a + b) % R) b = a ∧ borrowOf ((a + b) % R) b = carryOf (a + b) R := by
  obtain hfits | hwraps := Nat.lt_or_ge (a + b) R
  · rw [Nat.mod_eq_of_lt hfits]
    simp [wrapSub, borrowOf, carryOf, hfits]
  · have hmod : (a + b) % R = a + b - R := by
      rw [Nat.mod_eq_sub_mod hwraps, Nat.mod_eq_of_lt (by omega)]
    have hborrow : a + b - R < b := by omega
    rw [hmod, wrapSub, if_neg (by omega)]
    exact ⟨by omega, by simp [borrowOf, carryOf, hborrow, hwraps]⟩

/-! ### The meanings -/

theorem exec_add (rd ra rb : BReg) (s : State) :
    exec (.add rd ra rb) s =
      .next (finish .ok (setCF (setB s rd ((valB s ra + valB s rb) % radix s.nlimbs))
        (carryOf (valB s ra + valB s rb) (radix s.nlimbs)))) := rfl

theorem exec_sub (rd ra rb : BReg) (s : State) :
    exec (.sub rd ra rb) s =
      .next (finish .ok (setCF (setB s rd (wrapSub (radix s.nlimbs) (valB s ra) (valB s rb)))
        (borrowOf (valB s ra) (valB s rb)))) := rfl

theorem exec_cmp (ra rb : BReg) (s : State) :
    exec (.cmp ra rb) s = .next (finish .ok (setOrd s (compareInts (valB s ra) (valB s rb)))) := rfl

theorem exec_mulf (rd ra rb : BReg) (s : State) :
    exec (.mulf rd ra rb) s =
      .next (finish .ok (setB (setB s rd (valB s ra * valB s rb % radix s.nlimbs)) (rd + 1)
        (valB s ra * valB s rb / radix s.nlimbs))) := rfl

theorem exec_shl (rd ra : BReg) (rc : WReg) (s : State) :
    exec (.shl rd ra rc) s =
      .next (finish .ok (setB s rd (shiftLeft s.nlimbs (valB s ra) (getW s rc).toNat))) := rfl

theorem exec_shr (rd ra : BReg) (rc : WReg) (s : State) :
    exec (.shr rd ra rc) s =
      .next (finish .ok (setB s rd (shiftRight s.nlimbs (valB s ra) (getW s rc).toNat))) := rfl

@[simp] theorem valB_finish (k : ErrKind) (s : State) (r : Fin 8) : valB (finish k s) r = valB s r := rfl
@[simp] theorem valB_setCF (s : State) (c : Bool) (r : Fin 8) : valB (setCF s c) r = valB s r := rfl

theorem valB_setB_self_of_lt {s : State} {v : Nat} (r : Fin 8) (h : v < radix s.nlimbs) :
    valB (setB s r v) r = v := by
  rw [valB_setB_self, Nat.mod_eq_of_lt h]

/-! ### ADD, SUB and CMP (R91 to R93) -/

/-- Settles O10: the written value is the sum modulo the radix, and CF tells whether the sum reaches it. -/
theorem addWritesWrappedSum : Obligations.AddWritesWrappedSum := by
  unfold Obligations.AddWritesWrappedSum
  intro s rd ra rb
  have hexec := exec_add rd ra rb s
  refine ⟨_, hexec, ?_, by simp, carryOf_eq_true_iff _ _, rfl, rfl, ⟨rfl, rfl⟩, exec_frame hexec⟩
  rw [valB_finish, valB_setCF, valB_setB_self, Nat.mod_mod, radix]

/-- Settles O11: the written value is the wrapped difference of two values below the radix. -/
theorem subWritesWrappedDifference : Obligations.SubWritesWrappedDifference := by
  unfold Obligations.SubWritesWrappedDifference
  intro s rd ra rb hbanks
  have hexec := exec_sub rd ra rb s
  have ha := valB_lt s ra hbanks
  have hb := valB_lt s rb hbanks
  refine ⟨_, hexec, ?_, by simp, borrowOf_eq_true_iff _ _, rfl, rfl, ⟨rfl, rfl⟩, exec_frame hexec⟩
  rw [valB_finish, valB_setCF, valB_setB_self_of_lt rd (wrapSub_lt ha), wrapSub_eq_emod ha hb, radix]
  norm_cast

/-- Settles O12: ORD is the comparison of the two values. -/
theorem cmpWritesTheOrder : Obligations.CmpWritesTheOrder := by
  unfold Obligations.CmpWritesTheOrder
  intro s ra rb
  have hexec := exec_cmp ra rb s
  exact ⟨_, hexec, compareInts_eq_equal_iff _ _, compareInts_eq_less_iff _ _, compareInts_eq_greater_iff _ _, rfl,
    rfl, ⟨rfl, rfl⟩, exec_frame hexec⟩

/-! ### MULF (R94) -/

theorem valB_mul_valB_div_radix_lt {s : State} (h : BanksOk s) (ra rb : Fin 8) :
    valB s ra * valB s rb / radix s.nlimbs < radix s.nlimbs :=
  Nat.div_lt_of_lt_mul (Nat.mul_lt_mul'' (valB_lt s ra h) (valB_lt s rb h))

theorem ne_pairHigh (rd : BReg) : rd ≠ pairHigh rd := by
  revert rd; decide

/-- Settles O13: the second write leaves the low half, and the high half fits in its register. -/
theorem mulfWritesBothHalves : Obligations.MulfWritesBothHalves := by
  unfold Obligations.MulfWritesBothHalves
  intro s rd ra rb _ hbanks
  have hexec := exec_mulf rd ra rb s
  have hpair : rd ≠ rd + 1 := ne_pairHigh rd
  refine ⟨_, hexec, ?_, ?_, rfl, rfl, rfl, ⟨rfl, rfl⟩, exec_frame hexec⟩
  · rw [valB_finish, valB_setB_ne _ _ _ _ hpair, valB_setB_self, Nat.mod_mod, radix]
  · have hfits := valB_mul_valB_div_radix_lt hbanks ra rb
    exact valB_setB_self_of_lt (s := setB s rd _) (rd + 1) hfits

/-! ### SHL and SHR (R96, R97) -/

theorem shiftLeft_of_ge {L v count : Nat} (h : 64 * L ≤ count) : shiftLeft L v count = 0 := if_pos h

theorem shiftLeft_of_lt {L v count : Nat} (h : count < 64 * L) : shiftLeft L v count = v * 2 ^ count % radix L :=
  if_neg h.not_ge

theorem shiftLeft_lt (L v count : Nat) : shiftLeft L v count < radix L := by
  unfold shiftLeft
  split
  · exact radix_pos L
  · exact Nat.mod_lt _ (radix_pos L)

theorem shiftRight_of_ge {L v count : Nat} (h : 64 * L ≤ count) : shiftRight L v count = 0 := if_pos h

theorem shiftRight_of_lt {L v count : Nat} (h : count < 64 * L) : shiftRight L v count = v / 2 ^ count :=
  if_neg h.not_ge

theorem shiftRight_lt {L v : Nat} (hv : v < radix L) (count : Nat) : shiftRight L v count < radix L := by
  unfold shiftRight
  split
  · exact radix_pos L
  · exact (Nat.div_le_self _ _).trans_lt hv

/-- Settles O14: the written value is `shiftLeft`, which is below the radix. -/
theorem shlShiftsWithinTheWidth : Obligations.ShlShiftsWithinTheWidth := by
  unfold Obligations.ShlShiftsWithinTheWidth
  intro s rd ra rc
  have hexec := exec_shl rd ra rc s
  have hfits := shiftLeft_lt s.nlimbs (valB s ra) (getW s rc).toNat
  refine ⟨_, hexec, ?_, ?_, rfl, rfl, rfl, ⟨rfl, rfl⟩, exec_frame hexec⟩ <;>
    rw [valB_finish, valB_setB_self_of_lt rd hfits]
  · exact shiftLeft_of_ge
  · exact shiftLeft_of_lt

/-- Settles O15: the written value is `shiftRight`, which is below the radix as the operand is. -/
theorem shrShiftsLogically : Obligations.ShrShiftsLogically := by
  unfold Obligations.ShrShiftsLogically
  intro s rd ra rc hbanks
  have hexec := exec_shr rd ra rc s
  have hfits := shiftRight_lt (valB_lt s ra hbanks) (getW s rc).toNat
  refine ⟨_, hexec, ?_, ?_, rfl, rfl, rfl, ⟨rfl, rfl⟩, exec_frame hexec⟩ <;>
    rw [valB_finish, valB_setB_self_of_lt rd hfits]
  · exact shiftRight_of_ge
  · exact shiftRight_of_lt

/-! ### The laws of R99 -/

theorem limbs_valB {s : State} (h : BanksOk s) (r : Fin 8) : limbs s.nlimbs (valB s r) = getB s r := by
  rw [← h r, valB, limbs_val]

/-- ADD, and then SUB of a summand that ADD did not overwrite. -/
theorem exec_sub_after_add {s : State} {r0 r1 r2 : BReg} (r3 : BReg) (hbanks : BanksOk s) (hne : r1 ≠ r2) :
    ∃ t u, exec (.add r2 r0 r1) s = .next t ∧ exec (.sub r3 r2 r1) t = .next u ∧
      getB u r3 = getB s r0 ∧ u.cf = t.cf := by
  obtain ⟨hback, hflag⟩ := wrapSub_wrappedSum (valB_lt s r0 hbanks) (valB_lt s r1 hbanks)
  have hsum : (valB s r0 + valB s r1) % radix s.nlimbs < radix s.nlimbs := Nat.mod_lt _ (radix_pos _)
  refine ⟨_, _, exec_add r2 r0 r1 s, exec_sub r3 r2 r1 _, ?_, ?_⟩
  · simp only [getB_finish, getB_setCF, getB_setB_self, valB_finish, valB_setCF, finish_nlimbs, setCF_nlimbs,
      setB_nlimbs, valB_setB_self_of_lt r2 hsum, valB_setB_ne s r2 r1 _ hne, hback, limbs_valB hbanks]
  · simp only [finish_cf, setCF_cf, valB_finish, valB_setCF, valB_setB_self_of_lt r2 hsum,
      valB_setB_ne s r2 r1 _ hne, hflag]

/-- Settles O19: SUB meets the wrapped sum and the other summand, its borrow is CMP's Less, and a sum commutes. -/
theorem subUndoesAdd : Obligations.SubUndoesAdd := by
  unfold Obligations.SubUndoesAdd
  intro s r0 r1 r2 r3 hbanks hne
  refine ⟨exec_sub_after_add r3 hbanks hne, ⟨_, _, exec_sub r2 r0 r1 s, exec_cmp r0 r1 s, ?_⟩, ?_⟩
  · exact (borrowOf_eq_true_iff _ _).trans (compareInts_eq_less_iff _ _).symm
  · rw [exec_add, exec_add, Nat.add_comm]

end Sys2Proof.Machine
end

section
/-! The limb-level algorithms of the BigUint commands (R93, R95 to R98) give the integer values of their rules. -/

namespace Sys2Proof.Machine

/-- Induction over two arrays of one length, limb by limb. -/
theorem induction_of_length_eq {p : (as bs : List Word) → as.length = bs.length → Prop} (nil : p [] [] rfl)
    (cons : ∀ a b as bs (h : as.length = bs.length), p as bs h → p (a :: as) (b :: bs) (congrArg Nat.succ h)) :
    ∀ as bs (h : as.length = bs.length), p as bs h
  | [], [], _ => nil
  | a :: as, b :: bs, h => cons a b as bs _ (induction_of_length_eq nil cons as bs (Nat.succ.inj h))

/-! ### The ripple chains (R98) -/

/-- The limbs and the carry-out of the chain make up the exact sum. -/
theorem rippleAdd_exact {as bs : List Word} (h : as.length = bs.length) (c : Bool) :
    val (rippleAdd as bs c).1 + radix as.length * bit (rippleAdd as bs c).2 = val as + val bs + bit c := by
  induction as, bs, h using induction_of_length_eq generalizing c with
  | nil => simp [rippleAdd]
  | cons a b as bs h ih =>
    have hlimb := addWithCarry_exact a b c
    have hrest := ih (addWithCarry a b c).2
    simp only [rippleAdd, val_cons, List.length_cons, radix_succ, Nat.mul_assoc]
    omega

/-- The limbs and the borrow-out of the chain make up the exact difference. -/
theorem rippleSub_exact {as bs : List Word} (h : as.length = bs.length) (c : Bool) :
    (val (rippleSub as bs c).1 : Int) - (radix as.length * bit (rippleSub as bs c).2 : Nat) =
      val as - val bs - bit c := by
  induction as, bs, h using induction_of_length_eq generalizing c with
  | nil => simp [rippleSub]
  | cons a b as bs h ih =>
    have hlimb := subWithBorrow_exact a b c
    have hrest := ih (subWithBorrow a b c).2
    simp only [rippleSub, val_cons, List.length_cons, radix_succ, Nat.mul_assoc]
    omega

theorem length_rippleAdd {as bs : List Word} (h : as.length = bs.length) (c : Bool) :
    (rippleAdd as bs c).1.length = as.length := by
  induction as, bs, h using induction_of_length_eq generalizing c with
  | nil => rfl
  | cons a b as bs h ih => exact congrArg Nat.succ (ih _)

theorem length_rippleSub {as bs : List Word} (h : as.length = bs.length) (c : Bool) :
    (rippleSub as bs c).1.length = as.length := by
  induction as, bs, h using induction_of_length_eq generalizing c with
  | nil => rfl
  | cons a b as bs h ih => exact congrArg Nat.succ (ih _)

/-- A value below R and a carry that make up `t` are the remainder of `t` and whether `t` reaches R. -/
theorem mod_carry_of_exact {R x t : Nat} {c : Bool} (hx : x < R) (h : x + R * bit c = t) :
    x = t % R ∧ c = decide (R ≤ t) := by
  subst h
  refine ⟨by rw [Nat.add_mul_mod_self_left, Nat.mod_eq_of_lt hx], ?_⟩
  cases c <;> simp [bit, hx]

/-- A value below R and a borrow that make up `t` are the remainder of `t` and whether `t` is negative. -/
theorem emod_borrow_of_exact {R x : Nat} {t : Int} {c : Bool} (hx : x < R) (h : (x : Int) - (R * bit c : Nat) = t) :
    (x : Int) = t % R ∧ c = decide (t < 0) := by
  subst h
  refine ⟨by rw [Nat.cast_mul, Int.sub_mul_emod_self_left, Int.emod_eq_of_lt (by omega) (by omega)], ?_⟩
  cases c <;> simp [bit, hx]

theorem rippleAdd_eq {as bs : List Word} (h : as.length = bs.length) :
    rippleAdd as bs false =
      (limbs as.length ((val as + val bs) % radix as.length), decide (radix as.length ≤ val as + val bs)) := by
  have hlen := length_rippleAdd h false
  have hlt := val_lt (rippleAdd as bs false).1
  rw [hlen] at hlt
  obtain ⟨hval, hflag⟩ := mod_carry_of_exact hlt (rippleAdd_exact h false)
  refine Prod.ext ?_ hflag
  dsimp only
  rw [← limbs_val (rippleAdd as bs false).1, hlen, hval]
  rfl

theorem rippleSub_eq {as bs : List Word} (h : as.length = bs.length) :
    rippleSub as bs false =
      (limbs as.length (((val as : Int) - val bs) % radix as.length).toNat, decide (val as < val bs)) := by
  have hlen := length_rippleSub h false
  have hlt := val_lt (rippleSub as bs false).1
  rw [hlen] at hlt
  obtain ⟨hval, hflag⟩ := emod_borrow_of_exact hlt (rippleSub_exact h false)
  have hzero : ((bit false : Nat) : Int) = 0 := rfl
  rw [hzero, Int.sub_zero] at hval hflag
  refine Prod.ext ?_ (hflag.trans (by simp))
  rw [← limbs_val (rippleSub as bs false).1, hlen, ← hval, Int.toNat_natCast]

/-! ### The comparison (R93) -/

/-- The higher limbs decide, and the lowest one only when they are equal. -/
theorem compareLimbs_eq {as bs : List Word} (h : as.length = bs.length) :
    compareLimbs as bs = compareInts (val as) (val bs) := by
  induction as, bs, h using induction_of_length_eq with
  | nil => rfl
  | cons a b as bs h ih =>
    have ha := a.isLt
    have hb := b.isLt
    rw [compareLimbs, ih, val_cons, val_cons]
    obtain ⟨hhigh, ho⟩ | ⟨hhigh, ho⟩ | ⟨hhigh, ho⟩ := compareInts_cases (val as) (val bs) <;> rw [ho]
    · simp [compareInts, hhigh]
    · exact ((compareInts_eq_less_iff _ _).mpr (by omega)).symm
    · exact ((compareInts_eq_greater_iff _ _).mpr (by omega)).symm

/-- Settles O16: the chains are exact and their limbs are below the radix; the comparison is that of the values. -/
theorem rippleAndCompareEqualTheIntegers : Obligations.RippleAndCompareEqualTheIntegers := by
  unfold Obligations.RippleAndCompareEqualTheIntegers
  intro as bs h
  rw [compareLimbs_eq h]
  refine ⟨rippleAdd_eq h, ?_, compareInts_eq_equal_iff _ _, compareInts_eq_less_iff _ _,
    compareInts_eq_greater_iff _ _⟩
  rw [rippleSub_eq h, radix]
  norm_cast

/-! ### Schoolbook multiplication (R95) -/

/-- One step of the inner loop of R95 is exact: x y + t + carry is below 2^128, so the new carry fits a word. -/
theorem mulStep_exact (x y t carry : Word) :
    (addWithCarry (addWithCarry t (wideMultiply x y).2 false).1 carry false).1.toNat +
      2 ^ 64 * ((wideMultiply x y).1 + BitVec.ofNat 64 (bit (addWithCarry t (wideMultiply x y).2 false).2) +
        BitVec.ofNat 64 (bit (addWithCarry (addWithCarry t (wideMultiply x y).2 false).1 carry false).2)).toNat =
      x.toNat * y.toNat + t.toNat + carry.toNat := by
  have hprod := wideMultiply_exact x y
  have hfirst := addWithCarry_exact t (wideMultiply x y).2 false
  have hsecond := addWithCarry_exact (addWithCarry t (wideMultiply x y).2 false).1 carry false
  have hmax : x.toNat * y.toNat ≤ (2 ^ 64 - 1) * (2 ^ 64 - 1) :=
    Nat.mul_le_mul (Nat.le_sub_one_of_lt x.isLt) (Nat.le_sub_one_of_lt y.isLt)
  have hzero : bit false = 0 := rfl
  simp only [BitVec.toNat_add, BitVec.toNat_ofNat]
  omega

theorem val_mulRow {y : Word} {xs ts : List Word} (h : xs.length = ts.length) (carry : Word) :
    val (mulRow y xs ts carry) = val xs * y.toNat + val ts + carry.toNat := by
  induction xs, ts, h using induction_of_length_eq generalizing carry with
  | nil => simp [mulRow]
  | cons x t xs ts h ih =>
    have hstep := mulStep_exact x y t carry
    simp only [mulRow, val_cons, ih, Nat.add_mul, Nat.mul_assoc]
    omega

theorem length_mulRow {y : Word} {xs ts : List Word} (h : xs.length = ts.length) (carry : Word) :
    (mulRow y xs ts carry).length = xs.length + 1 := by
  induction xs, ts, h using induction_of_length_eq generalizing carry with
  | nil => rfl
  | cons x t xs ts h ih => exact congrArg Nat.succ (ih _)

/-- Each row adds its limb's multiple of `a` to the window; its lowest limb is final. -/
theorem mulRows_spec {a bs t : List Word} (h : a.length = t.length) :
    val (mulRows a bs t) = val a * val bs + val t ∧ (mulRows a bs t).length = a.length + bs.length := by
  induction bs generalizing t with
  | nil => simp [mulRows, h]
  | cons y ys ih =>
    have hval := val_mulRow (y := y) h 0
    have hlen := length_mulRow (y := y) h 0
    rw [mulRows]
    cases hrow : mulRow y a t 0 with
    | nil =>
      rw [hrow] at hlen
      exact absurd hlen (Nat.succ_ne_zero _).symm
    | cons r rs =>
      rw [hrow, val_cons] at hval
      rw [hrow, List.length_cons, Nat.add_right_cancel_iff] at hlen
      obtain ⟨hvals, hlens⟩ := ih hlen.symm
      have hzero : (0 : Word).toNat = 0 := rfl
      have hmul : val a * (2 ^ 64 * val ys) = 2 ^ 64 * (val a * val ys) := Nat.mul_left_comm ..
      simp only [val_cons, List.length_cons, hvals, hlens, Nat.mul_add, hmul]
      omega

/-- Settles O17: the rows start from a window of zero limbs. -/
theorem schoolbookGivesTheProduct : Obligations.SchoolbookGivesTheProduct := by
  unfold Obligations.SchoolbookGivesTheProduct
  intro as bs _
  have hspec := mulRows_spec (bs := bs) (length_zeroLimbs as.length).symm
  rwa [val_zeroLimbs, Nat.add_zero] at hspec

/-! ### The limb forms of the shifts (R96, R97) -/

theorem getD_limbs {n j : Nat} (v : Nat) (h : j < n) : (limbs n v).getD j 0 = BitVec.ofNat 64 (v / radix j) := by
  induction n generalizing j v with
  | zero => exact absurd h (Nat.not_lt_zero j)
  | succ n ih =>
    obtain _ | j := j
    · simp [limbs]
    · rw [limbs, List.getD_cons_succ, ih _ (Nat.lt_of_succ_lt_succ h), Nat.div_div_eq_div_mul, radix_succ]

theorem toNat_getD (a : List Word) (j : Nat) : (a.getD j 0).toNat = val a / radix j % 2 ^ 64 := by
  obtain hlt | hge := Nat.lt_or_ge j a.length
  · rw [← limbs_val a, getD_limbs _ hlt, BitVec.toNat_ofNat, limbs_val]
  · have hval : val a < radix j := (val_lt a).trans_le (radix_mono hge)
    rw [List.getD_eq_default _ _ hge, Nat.div_eq_of_lt hval]
    rfl

/-- Two limbs next to each other, read from bit `e` of the lower one on. -/
theorem two_limbs_shifted {e r : Nat} (her : e + r = 64) (h : Nat) :
    (h / 2 ^ 64 % 2 ^ 64 * 2 ^ r % 2 ^ 64 + h % 2 ^ 64 / 2 ^ e) % 2 ^ 64 = h / 2 ^ e % 2 ^ 64 := by
  have hwidth : 2 ^ 64 = 2 ^ e * 2 ^ r := by rw [← Nat.pow_add, her]
  have hsplit : h / 2 ^ 64 * 2 ^ r + h % 2 ^ 64 / 2 ^ e = h / 2 ^ e := by
    rw [hwidth, Nat.mod_mul_right_div_self, ← Nat.div_div_eq_div_mul, Nat.div_add_mod']
  rw [Nat.mod_add_mod, Nat.add_mod, Nat.mod_mul_mod, ← Nat.add_mod, hsplit]

/-- A value shifted left by `r` bits, from limb k + 1 on: the bits that leave limb k come in from below. -/
theorem mul_two_pow_div_radix_succ {e r : Nat} (her : e + r = 64) (v k : Nat) :
    v * 2 ^ r / radix (k + 1) = v / radix k / 2 ^ e := by
  have hwidth : radix (k + 1) = radix k * 2 ^ e * 2 ^ r := by
    rw [radix_succ, Nat.mul_comm, Nat.mul_assoc, ← Nat.pow_add, her]
  rw [hwidth, Nat.mul_div_mul_right _ _ (Nat.two_pow_pos r), Nat.div_div_eq_div_mul]

theorem two_pow_eq_radix_mul (s : Nat) : 2 ^ s = radix (s / 64) * 2 ^ (s % 64) := by
  rw [radix, ← Nat.pow_add, Nat.div_add_mod]

/-- A left shift by whole limbs, and by less than one. -/
theorem mul_two_pow_div_radix (v : Nat) {s j : Nat} (h : s / 64 ≤ j) :
    v * 2 ^ s / radix j = v * 2 ^ (s % 64) / radix (j - s / 64) := by
  have hj : radix j = radix (s / 64) * radix (j - s / 64) := by
    rw [radix, radix, radix, ← Nat.pow_add, ← Nat.mul_add, Nat.add_sub_cancel' h]
  rw [two_pow_eq_radix_mul, hj, Nat.mul_left_comm, Nat.mul_div_mul_left _ _ (radix_pos _)]

/-- The limbs below a left shift by whole limbs are 0. -/
theorem mul_two_pow_div_radix_mod_of_lt (v : Nat) {s j : Nat} (h : j < s / 64) :
    v * 2 ^ s / radix j % 2 ^ 64 = 0 := by
  have hs : 2 ^ s = radix j * (2 ^ 64 * 2 ^ (s - 64 * (j + 1))) := by
    rw [radix, ← Nat.pow_add, ← Nat.pow_add]
    congr 1
    omega
  rw [hs, Nat.mul_left_comm, Nat.mul_div_cancel_left _ (radix_pos j), Nat.mul_left_comm, Nat.mul_mod_right]

/-- A right shift by whole limbs, and by less than one. -/
theorem div_two_pow_div_radix (v s j : Nat) :
    v / 2 ^ s / radix j = v / radix (j + s / 64) / 2 ^ (s % 64) := by
  have hexp : radix (s / 64) * radix j = radix (j + s / 64) := by
    rw [radix, radix, radix, ← Nat.pow_add, ← Nat.mul_add, Nat.add_comm]
  rw [Nat.div_div_eq_div_mul, Nat.div_div_eq_div_mul, two_pow_eq_radix_mul, Nat.mul_right_comm, hexp]

theorem toNat_getD_succ (a : List Word) (j : Nat) :
    (a.getD (j + 1) 0).toNat = val a / radix j / 2 ^ 64 % 2 ^ 64 := by
  rw [toNat_getD, radix_succ, Nat.mul_comm, Nat.div_div_eq_div_mul]

/-- Limb j of the left shift in whole numbers (R96). -/
theorem shlLimb_eq (a : List Word) (s j : Nat) : shlLimb a s j = BitVec.ofNat 64 (val a * 2 ^ s / radix j) := by
  have hr : s % 64 < 64 := Nat.mod_lt _ (by decide)
  apply BitVec.eq_of_toNat_eq
  simp only [shlLimb]
  split
  next hlow => rw [BitVec.toNat_ofNat, mul_two_pow_div_radix_mod_of_lt _ hlow]; rfl
  next hhigh =>
    rw [BitVec.toNat_ofNat, BitVec.toNat_ofNat, mul_two_pow_div_radix _ (Nat.le_of_not_lt hhigh)]
    cases hi : j - s / 64 with
    | zero =>
      rw [if_neg (by omega), toNat_getD, radix_zero, Nat.div_one, Nat.div_one, Nat.add_zero, Nat.mod_mod,
        Nat.mod_mul_mod]
    | succ k =>
      rw [Nat.add_sub_cancel]
      have hbelow : (if 0 < s % 64 ∧ s / 64 + 1 ≤ j then (a.getD k 0).toNat / 2 ^ (64 - s % 64) else 0) =
          (a.getD k 0).toNat / 2 ^ (64 - s % 64) := by
        rw [ite_eq_left_iff]
        intro hnone
        have hzero : s % 64 = 0 := by omega
        rw [hzero, Nat.div_eq_of_lt (BitVec.isLt _)]
      rw [hbelow, toNat_getD_succ, toNat_getD, two_limbs_shifted (Nat.sub_add_cancel hr.le),
        mul_two_pow_div_radix_succ (Nat.sub_add_cancel hr.le)]

/-- Limb j of the right shift in whole numbers (R97). -/
theorem shrLimb_eq (a : List Word) (s j : Nat) : shrLimb a s j = BitVec.ofNat 64 (val a / 2 ^ s / radix j) := by
  have hr : s % 64 < 64 := Nat.mod_lt _ (by decide)
  apply BitVec.eq_of_toNat_eq
  simp only [shrLimb]
  rw [div_two_pow_div_radix]
  split
  next hpast =>
    have hval : val a < radix (j + s / 64) := (val_lt a).trans_le (radix_mono hpast)
    rw [Nat.div_eq_of_lt hval, Nat.zero_div]
    rfl
  next hin =>
    have habove : (if 0 < s % 64 ∧ j + s / 64 + 1 < a.length then
          (a.getD (j + s / 64 + 1) 0).toNat * 2 ^ (64 - s % 64) % 2 ^ 64 else 0) =
        (a.getD (j + s / 64 + 1) 0).toNat * 2 ^ (64 - s % 64) % 2 ^ 64 := by
      rw [ite_eq_left_iff]
      intro hnone
      obtain hzero | hlast : s % 64 = 0 ∨ a.length ≤ j + s / 64 + 1 := by omega
      · rw [hzero, Nat.mul_mod_left]
      · rw [List.getD_eq_default _ _ hlast]
        simp
    rw [habove, Nat.add_comm, BitVec.toNat_ofNat, BitVec.toNat_ofNat, toNat_getD_succ, toNat_getD,
      two_limbs_shifted (Nat.add_sub_cancel' hr.le)]

theorem limbs_mod_radix (n v : Nat) : limbs n (v % radix n) = limbs n v :=
  val_inj (by simp) (by rw [val_limbs, val_limbs, Nat.mod_mod])

/-- Settles O18: both sides are the quotient of the shifted integer by the radix of j limbs, as a word. -/
theorem limbShiftsEqualTheIntegers : Obligations.LimbShiftsEqualTheIntegers := by
  unfold Obligations.LimbShiftsEqualTheIntegers
  intro a s j _ hj
  rw [← radix, limbs_mod_radix, getD_limbs _ hj, getD_limbs _ hj]
  exact ⟨(shlLimb_eq a s j).symm, (shrLimb_eq a s j).symm⟩

end Sys2Proof.Machine
end

section
/-! The Montgomery engine (R111 to R121): the reduction of R114 divides by R modulo N, and with that MONTMUL, FROMMONT
and their round trip compute what their rules say; the commands' refusals. -/

namespace Sys2Proof.Machine

/-! ### The limb count of R and the negated inverse (R111, R112) -/

/-- Settles O20: the four bounds on the limb count. -/
theorem montgomeryConstantIsSmallest : Obligations.MontgomeryConstantIsSmallest := by
  unfold Obligations.MontgomeryConstantIsSmallest
  intro N hN
  exact ⟨rfl, limbCount_pos hN, lt_radix_limbCount N, radix_limbCount_le hN, fun _ => limbCount_le⟩

theorem one_lt_radix {n : Nat} (hn : 1 ≤ n) : 1 < radix n := Nat.one_lt_two_pow (by omega)

theorem coprime_radix_of_odd {N : Nat} (hN : N % 2 = 1) (n : Nat) : Nat.Coprime (radix n) N :=
  (Nat.coprime_two_left.mpr (Nat.odd_iff.mpr hN)).pow_left _

theorem mul_invModR_mod {N n : Nat} (hN : N % 2 = 1) (hn : 1 ≤ n) : N * invModR N n % radix n = 1 := by
  have hinv : N * invModR N n ≡ 1 [MOD radix n] := by
    have := mul_invModR_modEq_one hN hn
    exact Int.natCast_modEq_iff.mp (by exact_mod_cast this)
  exact Nat.mod_eq_of_modEq hinv (one_lt_radix hn)

theorem invModR_pos {N n : Nat} (hN : N % 2 = 1) (hn : 1 ≤ n) : 1 ≤ invModR N n := by
  by_contra hzero
  have hprod := mul_invModR_mod hN hn
  simp [show invModR N n = 0 by omega] at hprod

theorem nPrimeOf_eq_radix_sub {N n : Nat} (hN : N % 2 = 1) (hn : 1 ≤ n) : nPrimeOf N n = radix n - invModR N n := by
  have hpos := invModR_pos hN hn
  exact Nat.mod_eq_of_lt (by have := radix_pos n; omega)

/-- An odd N can be cancelled modulo R, so a residue below R has one cofactor below R. -/
theorem eq_of_mul_mod_radix_eq {N n x y : Nat} (hN : N % 2 = 1) (hx : x < radix n) (hy : y < radix n)
    (h : N * x % radix n = N * y % radix n) : x = y :=
  (Nat.ModEq.cancel_left_of_coprime (coprime_radix_of_odd hN n) h).eq_of_lt_of_lt hx hy

/-- R is even, so N N′ is odd as R - 1 is. -/
theorem nPrimeOf_odd {N n : Nat} (hN : N % 2 = 1) (hn : 1 ≤ n) : nPrimeOf N n % 2 = 1 := by
  have heven : 2 ∣ radix n := dvd_pow_self 2 (by omega)
  have hprod : N * nPrimeOf N n % 2 = (radix n - 1) % 2 := by
    rw [← mul_nPrimeOf_mod hN hn, Nat.mod_mod_of_dvd _ heven]
  have hpos : 0 < radix n := radix_pos n
  have hodd : (radix n - 1) % 2 = 1 := by omega
  exact Nat.odd_iff.mp (Nat.odd_mul.mp (Nat.odd_iff.mpr (hprod.trans hodd))).2

/-- Settles O21: the inverse is Newton's, and an odd N can be cancelled modulo R. -/
theorem nPrimeIsTheNegatedInverse : Obligations.NPrimeIsTheNegatedInverse := by
  unfold Obligations.NPrimeIsTheNegatedInverse
  intro N n hN hn
  have hinv := mul_invModR_mod hN hn
  have hneg := mul_nPrimeOf_mod hN hn
  refine ⟨⟨invModR N n, ⟨invModR_pos hN hn, invModR_lt N n, hinv⟩, fun x _ hx hxinv => ?_,
    nPrimeOf_eq_radix_sub hN hn⟩, nPrimeOf_odd hN hn, nPrimeOf_lt N n, hneg, fun x hx hxneg => ?_⟩
  · exact eq_of_mul_mod_radix_eq hN hx (invModR_lt N n) (hxinv.trans hinv.symm)
  · exact eq_of_mul_mod_radix_eq hN hx (nPrimeOf_lt N n) (hxneg.trans hneg.symm)

/-! ### The reduction (R114, R115) -/

/-- What the reduction needs of a context: a modulus below R, and N N′ ≡ −1 (mod R). -/
structure MontConstants (N Np n : Nat) : Prop where
  lt_radix : N < radix n
  neg_inv : N * Np % radix n = radix n - 1

theorem mul_one_lt_mul_radix {N a : Nat} (n : Nat) (ha : a < N) : a * 1 < N * radix n :=
  Nat.mul_lt_mul_of_lt_of_le ha (radix_pos n) (radix_pos n)

section
variable {N Np n : Nat} (h : MontConstants N Np n)
include h

theorem MontConstants.radix_dvd : radix n ∣ N * Np + 1 := by
  have hpos : 0 < radix n := radix_pos n
  apply Nat.modEq_zero_iff_dvd.mp
  calc N * Np + 1 ≡ radix n - 1 + 1 [MOD radix n] := by
        rw [← h.neg_inv]
        exact (Nat.mod_modEq _ _).symm.add_right 1
    _ = radix n := Nat.sub_add_cancel hpos
    _ ≡ 0 [MOD radix n] := Nat.modEq_zero_iff_dvd.mpr dvd_rfl

theorem MontConstants.coprime : Nat.Coprime N (radix n) :=
  Nat.Coprime.coprime_dvd_right h.radix_dvd ((Nat.coprime_mul_left_add_right N 1 Np).mpr N.coprime_one_right)

/-- R has an inverse modulo N: the quotient of N N′ + 1 by R. -/
theorem MontConstants.exists_radix_inverse (hN : 0 < N) : ∃ Rinv, Rinv < N ∧ radix n * Rinv % N = 1 % N := by
  obtain ⟨q, hq⟩ := h.radix_dvd
  refine ⟨q % N, Nat.mod_lt _ hN, ?_⟩
  rw [Nat.mul_mod_mod, ← hq, Nat.mul_add_mod]

/-- m of R114 makes t + m N a multiple of R. -/
theorem MontConstants.radix_dvd_add (t : Nat) : radix n ∣ t + t % radix n * Np % radix n * N := by
  apply Nat.modEq_zero_iff_dvd.mp
  calc t + t % radix n * Np % radix n * N
      ≡ t + t * Np * N [MOD radix n] := by
        gcongr
        exact (Nat.mod_modEq _ _).trans ((Nat.mod_modEq _ _).mul_right Np)
    _ = t * (N * Np + 1) := by ring
    _ ≡ t * 0 [MOD radix n] := (Nat.modEq_zero_iff_dvd.mpr h.radix_dvd).mul_left t

/-- The reduction of t divides it by R modulo N (R115). -/
theorem MontConstants.reduce_spec {t : Nat} (ht : t < N * radix n) :
    reduce N Np n t < N ∧ reduce N Np n t * radix n ≡ t [MOD N] := by
  obtain ⟨u, hu⟩ := h.radix_dvd_add t
  have hquot : (t + t % radix n * Np % radix n * N) / radix n = u := by
    rw [hu, Nat.mul_div_cancel_left _ (radix_pos n)]
  have hcong : u * radix n ≡ t [MOD N] := by
    rw [Nat.mul_comm, ← hu]
    simp [Nat.ModEq]
  have hbound : u < 2 * N := by
    have hm : t % radix n * Np % radix n * N ≤ radix n * N :=
      Nat.mul_le_mul_right N (Nat.mod_lt _ (radix_pos n)).le
    exact Nat.lt_of_mul_lt_mul_left (a := radix n) (by linarith)
  simp only [reduce, hquot]
  split
  · next hge =>
    have hsub : u - N ≡ u [MOD N] := (Nat.modEq_iff_dvd' (Nat.sub_le u N)).mpr (by simp [Nat.sub_sub_self hge])
    exact ⟨by omega, (hsub.mul_right _).trans hcong⟩
  · next hlt => exact ⟨by omega, hcong⟩

theorem MontConstants.mul_lt {a b : Nat} (ha : a < N) (hb : b < N) : a * b < N * radix n :=
  Nat.mul_lt_mul'' ha (hb.trans h.lt_radix)

theorem MontConstants.montMul_lt {a b : Nat} (ht : a * b < N * radix n) : montMul N Np n a b < N :=
  (h.reduce_spec ht).1

/-- MontMul(a, b) is the residue c with c R ≡ a b (mod N), for R can be cancelled modulo N (R115). -/
theorem MontConstants.montMul_eq {a b c : Nat} (ht : a * b < N * radix n) (hc : c * radix n ≡ a * b [MOD N]) :
    montMul N Np n a b = c % N := by
  obtain ⟨hlt, hcong⟩ := h.reduce_spec ht
  have hcancel : montMul N Np n a b ≡ c [MOD N] :=
    Nat.ModEq.cancel_right_of_coprime h.coprime (hcong.trans hc.symm)
  exact (Nat.mod_eq_of_modEq hcancel.symm hlt).symm

/-- R115 for a product below N R, the inverse of R being any. -/
theorem MontConstants.montMul_eq_mul_inverse {a b Rinv : Nat} (ht : a * b < N * radix n)
    (hinv : radix n * Rinv % N = 1 % N) : montMul N Np n a b = a * b * Rinv % N := by
  refine h.montMul_eq ht ?_
  calc a * b * Rinv * radix n = a * b * (radix n * Rinv) := by ring
    _ ≡ a * b * 1 [MOD N] := Nat.ModEq.mul_left _ hinv
    _ = a * b := Nat.mul_one _

/-- The product of two values in Montgomery form is the Montgomery form of their product (R121). -/
theorem MontConstants.montMul_toMont (hN : 0 < N) (x y : Nat) :
    montMul N Np n (x * radix n % N) (y * radix n % N) = x * y * radix n % N := by
  refine h.montMul_eq (h.mul_lt (Nat.mod_lt _ hN) (Nat.mod_lt _ hN)) ?_
  calc x * y * radix n * radix n = x * radix n * (y * radix n) := by ring
    _ ≡ x * radix n % N * (y * radix n % N) [MOD N] := (Nat.mod_modEq _ _).symm.mul (Nat.mod_modEq _ _).symm

/-- Leaving Montgomery form undoes entering it (R121). -/
theorem MontConstants.montMul_one_toMont (hN : 0 < N) (x : Nat) : montMul N Np n (x * radix n % N) 1 = x % N := by
  refine h.montMul_eq (mul_one_lt_mul_radix n (Nat.mod_lt _ hN)) ?_
  rw [Nat.mul_one]
  exact (Nat.mod_modEq _ _).symm

end

/-- Settles O22: the reduction divides the product by R modulo N. -/
theorem montMulIsTheModularProduct : Obligations.MontMulIsTheModularProduct := by
  unfold Obligations.MontMulIsTheModularProduct
  intro N Np n a b Rinv hneg hlt ha hb _ hinv
  have hred : MontConstants N Np n := ⟨hlt, hneg.symm⟩
  have ht := hred.mul_lt ha hb
  exact ⟨hred.montMul_eq_mul_inverse ht hinv, hred.montMul_lt ht⟩

/-! ### SETMOD (R113) -/

theorem exec_setmod_of_odd {s : State} {ra : BReg} (hodd : valB s ra % 2 = 1) :
    exec (.setmod ra) s = .next (finish .ok (setCtx s (buildCtx s.nlimbs (valB s ra)))) :=
  if_neg (by omega)

theorem exec_setmod_of_even {s : State} {ra : BReg} (heven : valB s ra % 2 = 0) :
    exec (.setmod ra) s = .next (finish .nonInvertible s) :=
  if_pos heven

/-- Settles O23: the slot is the one of `buildCtx`, which meets the context invariant. -/
theorem setmodBuildsTheContext : Obligations.SetmodBuildsTheContext := by
  unfold Obligations.SetmodBuildsTheContext
  intro s ra hbanks hodd
  have hexec := exec_setmod_of_odd hodd
  have hlt := valB_lt s ra hbanks
  have hN : val (buildCtx s.nlimbs (valB s ra)).n = valB s ra := val_limbs_of_lt _ _ hlt
  obtain ⟨hlenN, hlenNp, hvalid, -⟩ := ctxOk_buildCtx hodd hlt
  obtain ⟨-, -, -, -, -, -, hneg, hNp⟩ := hvalid rfl
  rw [hN] at hneg
  exact ⟨_, hexec, rfl, hN, rfl, hNp, hneg, hlenN, hlenNp, rfl, rfl, ⟨rfl, rfl⟩, exec_frame hexec⟩

/-- Settles O24: an even value fails the check of SETMOD. -/
theorem setmodRefusesEvenModuli : Obligations.SetmodRefusesEvenModuli := by
  unfold Obligations.SetmodRefusesEvenModuli
  exact fun _ _ => exec_setmod_of_even

/-! ### The commands that need a context (R116 to R118, R120) -/

/-- Settles O29: each of the five starts with the context check. -/
theorem missingContextIsReported : Obligations.MissingContextIsReported := by
  unfold Obligations.MissingContextIsReported
  intro s rd ra rb hinvalid
  exact ⟨needContext_invalid _ hinvalid, needContext_invalid _ hinvalid, needContext_invalid _ hinvalid,
    needContext_invalid _ hinvalid, needContext_invalid _ hinvalid⟩

section
variable {s : State} (hvalid : s.ctx.valid = true)
include hvalid

/-- The range check of R117, R118 and R133 comes after the context check. -/
theorem needContext_rangeCheck_fails {p : Prop} [Decidable p] (m : Res) (hp : p) :
    needContext s (if p then raise .valueOutOfRange s else m) = .next (finish .valueOutOfRange s) :=
  (needContext_valid _ hvalid).trans (if_pos hp)

theorem needContext_rangeCheck_passes {p : Prop} [Decidable p] (m : Res) (hp : ¬ p) :
    needContext s (if p then raise .valueOutOfRange s else m) = m :=
  (needContext_valid _ hvalid).trans (if_neg hp)

theorem exec_tomont (rd ra : BReg) :
    exec (.tomont rd ra) s = .next (finish .ok (setB s rd (valB s ra * radix s.ctx.rl % val s.ctx.n))) :=
  needContext_valid _ hvalid

theorem exec_montmul (rd : BReg) {ra rb : BReg} (ha : valB s ra < val s.ctx.n) (hb : valB s rb < val s.ctx.n) :
    exec (.montmul rd ra rb) s =
      .next (finish .ok (setB s rd (montMul (val s.ctx.n) (val s.ctx.np) s.ctx.rl (valB s ra) (valB s rb)))) :=
  needContext_rangeCheck_passes hvalid _ (not_or.mpr ⟨ha.not_ge, hb.not_ge⟩)

theorem exec_frommont (rd : BReg) {ra : BReg} (ha : valB s ra < val s.ctx.n) :
    exec (.frommont rd ra) s =
      .next (finish .ok (setB s rd (montMul (val s.ctx.n) (val s.ctx.np) s.ctx.rl (valB s ra) 1))) :=
  needContext_rangeCheck_passes hvalid _ ha.not_ge

end

/-- Settles O28: with a context, the range check decides. -/
theorem outOfRangeOperandsAreRefused : Obligations.OutOfRangeOperandsAreRefused := by
  unfold Obligations.OutOfRangeOperandsAreRefused
  intro s rd ra rb hvalid
  exact ⟨fun hout => needContext_rangeCheck_fails hvalid _ hout,
    fun hout => ⟨needContext_rangeCheck_fails hvalid _ hout, needContext_rangeCheck_fails hvalid _ hout⟩⟩

/-! ### Values in a block with a context (R28) -/

theorem modulus_lt_radix {s : State} (hinv : Inv s) : val s.ctx.n < radix s.nlimbs := by
  obtain ⟨-, -, ⟨hlen, -⟩, -⟩ := hinv
  exact hlen ▸ val_lt s.ctx.n

section
variable {s : State} (hinv : Inv s) (hvalid : s.ctx.valid = true)
include hinv hvalid

theorem modulus_pos : 0 < val s.ctx.n := by
  obtain ⟨-, -, ⟨-, -, hctx, -⟩, -⟩ := hinv
  obtain ⟨hodd, -⟩ := hctx hvalid
  omega

theorem montConstants_of_inv : MontConstants (val s.ctx.n) (val s.ctx.np) s.ctx.rl := by
  obtain ⟨-, -, ⟨-, -, hctx, -⟩, -⟩ := hinv
  obtain ⟨-, -, -, -, hlt, -, hneg, -⟩ := hctx hvalid
  exact ⟨hlt, hneg⟩

end

/-- What a command that writes a residue modulo N to `B[rd]` and nothing else leaves (R90, R116 to R118, R150). -/
structure WroteResidue (s t : State) (rd : BReg) (v : Nat) : Prop where
  value : valB t rd = v
  cf : t.cf = s.cf
  ord : t.ord = s.ord
  ctx : t.ctx = s.ctx
  completed : Completed t
  frame : Frame s t [] [rd]
  inv : Inv t

/-- The residue fits in its register, for N has at most L limbs. -/
theorem wroteResidue_of_exec {i : Instr} {s : State} {rd : BReg} {v : Nat} (hinv : Inv s)
    (hword : wordDests i = []) (hbig : bigDests i = [rd]) (hexec : exec i s = .next (finish .ok (setB s rd v)))
    (hv : v < val s.ctx.n) : WroteResidue s (finish .ok (setB s rd v)) rd v := by
  have hframe := exec_frame hexec
  rw [hword, hbig] at hframe
  have hinvAt : InvAt s.nlimbs s := ⟨hinv, rfl⟩
  obtain ⟨hinv', -⟩ := hinvAt.exec hexec
  exact ⟨valB_setB_self_of_lt rd (hv.trans (modulus_lt_radix hinv)), rfl, rfl, rfl, ⟨rfl, rfl⟩, hframe, hinv'⟩

theorem WroteResidue.valB_of_ne {s t : State} {rd q : BReg} {v : Nat} (h : WroteResidue s t rd v) (hne : q ≠ rd) :
    valB t q = valB s q :=
  congrArg val (h.frame.b q (List.mem_singleton.not.mpr hne))

section
variable {s : State} (hinv : Inv s) (hvalid : s.ctx.valid = true)
include hinv hvalid

theorem exec_tomont_writes (rd ra : BReg) :
    ∃ t, exec (.tomont rd ra) s = .next t ∧
      WroteResidue s t rd (valB s ra * radix s.ctx.rl % val s.ctx.n) := by
  have hexec := exec_tomont hvalid rd ra
  exact ⟨_, hexec, wroteResidue_of_exec hinv rfl rfl hexec (Nat.mod_lt _ (modulus_pos hinv hvalid))⟩

theorem exec_montmul_writes (rd : BReg) {ra rb : BReg} (ha : valB s ra < val s.ctx.n) (hb : valB s rb < val s.ctx.n) :
    ∃ t, exec (.montmul rd ra rb) s = .next t ∧
      WroteResidue s t rd (montMul (val s.ctx.n) (val s.ctx.np) s.ctx.rl (valB s ra) (valB s rb)) := by
  have hexec := exec_montmul hvalid rd ha hb
  have hred := montConstants_of_inv hinv hvalid
  exact ⟨_, hexec, wroteResidue_of_exec hinv rfl rfl hexec (hred.montMul_lt (hred.mul_lt ha hb))⟩

theorem exec_frommont_writes (rd : BReg) {ra : BReg} (ha : valB s ra < val s.ctx.n) :
    ∃ t, exec (.frommont rd ra) s = .next t ∧
      WroteResidue s t rd (montMul (val s.ctx.n) (val s.ctx.np) s.ctx.rl (valB s ra) 1) := by
  have hexec := exec_frommont hvalid rd ha
  have hred := montConstants_of_inv hinv hvalid
  exact ⟨_, hexec, wroteResidue_of_exec hinv rfl rfl hexec (hred.montMul_lt (mul_one_lt_mul_radix _ ha))⟩

end

/-- Settles O25: the written value is a residue modulo N. -/
theorem tomontConvertsIn : Obligations.TomontConvertsIn := by
  unfold Obligations.TomontConvertsIn
  intro s rd ra hinv hvalid
  obtain ⟨t, hexec, ht⟩ := exec_tomont_writes hinv hvalid rd ra
  have hlt : valB t rd < val s.ctx.n := ht.value.trans_lt (Nat.mod_lt _ (modulus_pos hinv hvalid))
  exact ⟨t, hexec, ht.value, hlt, ht.cf, ht.ord, ht.ctx, ht.completed, ht.frame⟩

/-- Settles O26: the reduction divides the product by R modulo N. -/
theorem montmulMultiplies : Obligations.MontmulMultiplies := by
  unfold Obligations.MontmulMultiplies
  intro s rd ra rb hinv hvalid ha hb
  have hred := montConstants_of_inv hinv hvalid
  obtain ⟨Rinv, hlt, hone⟩ := hred.exists_radix_inverse (modulus_pos hinv hvalid)
  obtain ⟨t, hexec, ht⟩ := exec_montmul_writes hinv hvalid rd ha hb
  have hvalue := ht.value.trans (hred.montMul_eq_mul_inverse (hred.mul_lt ha hb) hone)
  exact ⟨t, Rinv, hexec, hlt, hone, hvalue, ht.cf, ht.ord, ht.ctx, ht.completed, ht.frame⟩

/-- Settles O27: the reduction divides x by R modulo N. -/
theorem frommontConvertsOut : Obligations.FrommontConvertsOut := by
  unfold Obligations.FrommontConvertsOut
  intro s rd ra hinv hvalid ha
  have hred := montConstants_of_inv hinv hvalid
  obtain ⟨Rinv, hlt, hone⟩ := hred.exists_radix_inverse (modulus_pos hinv hvalid)
  obtain ⟨t, hexec, ht⟩ := exec_frommont_writes hinv hvalid rd ha
  have hvalue := ht.value.trans (hred.montMul_eq_mul_inverse (mul_one_lt_mul_radix _ ha) hone)
  rw [Nat.mul_one] at hvalue
  exact ⟨t, Rinv, hexec, hlt, hone, hvalue, ht.cf, ht.ord, ht.ctx, ht.completed, ht.frame⟩

/-! ### The round trip (R121) -/

section
variable {s : State} (hinv : Inv s) (hvalid : s.ctx.valid = true)
include hinv hvalid

/-- FROMMONT of a register that holds the Montgomery form of x. -/
theorem exec_frommont_of_montForm (rd : BReg) {ra : BReg} {x : Nat}
    (hform : valB s ra = x * radix s.ctx.rl % val s.ctx.n) :
    ∃ t, exec (.frommont rd ra) s = .next t ∧ WroteResidue s t rd (x % val s.ctx.n) := by
  have hpos := modulus_pos hinv hvalid
  obtain ⟨t, hexec, ht⟩ := exec_frommont_writes hinv hvalid rd (hform.trans_lt (Nat.mod_lt _ hpos))
  rw [hform, (montConstants_of_inv hinv hvalid).montMul_one_toMont hpos] at ht
  exact ⟨t, hexec, ht⟩

/-- MONTMUL of two registers that hold the Montgomery forms of x and y. -/
theorem exec_montmul_of_montForm (rd : BReg) {ra rb : BReg} {x y : Nat}
    (hx : valB s ra = x * radix s.ctx.rl % val s.ctx.n) (hy : valB s rb = y * radix s.ctx.rl % val s.ctx.n) :
    ∃ t, exec (.montmul rd ra rb) s = .next t ∧
      WroteResidue s t rd (x * y * radix s.ctx.rl % val s.ctx.n) := by
  have hpos := modulus_pos hinv hvalid
  obtain ⟨t, hexec, ht⟩ :=
    exec_montmul_writes hinv hvalid rd (hx.trans_lt (Nat.mod_lt _ hpos)) (hy.trans_lt (Nat.mod_lt _ hpos))
  rw [hx, hy, (montConstants_of_inv hinv hvalid).montMul_toMont hpos] at ht
  exact ⟨t, hexec, ht⟩

end

/-- Settles O30: each command meets the Montgomery forms that the ones before it wrote, and keeps the slot. -/
theorem montgomeryRoundTrip : Obligations.MontgomeryRoundTrip := by
  unfold Obligations.MontgomeryRoundTrip
  intro s r0 r1 r2 r3 r4 r5 hinv hvalid h12 h23
  obtain ⟨t1, hexec1, ht1⟩ := exec_tomont_writes hinv hvalid r2 r0
  have hvalid1 : t1.ctx.valid = true := ht1.ctx ▸ hvalid
  constructor
  · obtain ⟨t2, hexec2, ht2⟩ := exec_tomont_writes ht1.inv hvalid1 r3 r1
    have hctx2 : t2.ctx = s.ctx := ht2.ctx.trans ht1.ctx
    have hvalid2 : t2.ctx.valid = true := hctx2 ▸ hvalid
    have hx : valB t2 r2 = valB s r0 * radix t2.ctx.rl % val t2.ctx.n := by
      rw [ht2.valB_of_ne h23, ht1.value, hctx2]
    have hy : valB t2 r3 = valB s r1 * radix t2.ctx.rl % val t2.ctx.n := by
      rw [ht2.value, ht1.valB_of_ne h12, ht2.ctx]
    obtain ⟨t3, hexec3, ht3⟩ := exec_montmul_of_montForm ht2.inv hvalid2 r4 hx hy
    have hctx3 : t3.ctx = s.ctx := ht3.ctx.trans hctx2
    have hprod : valB t3 r4 = valB s r0 * valB s r1 * radix t3.ctx.rl % val t3.ctx.n := by
      rw [ht3.value, ht3.ctx]
    obtain ⟨t4, hexec4, ht4⟩ := exec_frommont_of_montForm ht3.inv (hctx3 ▸ hvalid) r5 hprod
    rw [hctx3] at hprod ht4
    exact ⟨t1, t2, t3, t4, hexec1, hexec2, hexec3, hexec4, ht1.completed.1, ht2.completed.1, ht3.completed.1,
      ht4.completed.1, hprod, ht4.value⟩
  · have hx : valB t1 r2 = valB s r0 * radix t1.ctx.rl % val t1.ctx.n := by rw [ht1.value, ht1.ctx]
    obtain ⟨t2, hexec2, ht2⟩ := exec_frommont_of_montForm ht1.inv hvalid1 r3 hx
    rw [ht1.ctx] at ht2
    exact ⟨t1, t2, hexec1, hexec2, ht2.value⟩

end Sys2Proof.Machine
end

section
/-! Exponentiation (R130 to R137): squaring and multiplying modulo N gives b^e mod N, the engine's Montgomery schedule
gives the same, MODEXP and RSAT write it, and two RSAT commands with matching exponents give the message back. -/

namespace Sys2Proof.Machine

/-! ### The value (R130) -/

/-- Squaring and multiplying over k bits gives the power modulo N for every exponent of at most k bits. -/
theorem powModBits_eq (N b : Nat) {k e : Nat} (he : e < 2 ^ k) : powModBits N b k e = b ^ e % N := by
  induction k generalizing e with
  | zero =>
    obtain rfl : e = 0 := by simpa using he
    rfl
  | succ k ih =>
    have hhalf : powModBits N b k (e / 2) = b ^ (e / 2) % N := ih (by omega)
    have hsquare : b ^ (e / 2) % N * (b ^ (e / 2) % N) % N = b ^ (2 * (e / 2)) % N := by
      rw [← Nat.mul_mod, ← pow_add, two_mul]
    simp only [powModBits, hhalf, hsquare]
    split
    · next hodd => rw [Nat.mod_mul_mod, ← pow_succ, show 2 * (e / 2) + 1 = e by omega]
    · next heven => rw [show 2 * (e / 2) = e by omega]

theorem modExp_eq (b e N : Nat) : modExp b e N = b ^ e % N := powModBits_eq N b (lt_two_pow_bitlen e)

/-- Settles O31: the value is a power modulo N, so the base counts modulo N only. -/
theorem modExpIsThePowerModN : Obligations.ModExpIsThePowerModN := by
  unfold Obligations.ModExpIsThePowerModN
  intro b e N
  exact ⟨modExp_eq b e N, by rw [modExp_eq, modExp_eq, ← Nat.pow_mod]⟩

/-! ### The engine's schedule (R131, R136) -/

/-- Bit i of e is the last bit of e / 2^i. -/
theorem div_two_pow_eq_two_mul_add_testBit (e i : Nat) :
    e / 2 ^ i = 2 * (e / 2 ^ (i + 1)) + (e.testBit i).toNat := by
  rw [Nat.toNat_testBit, Nat.pow_succ, ← Nat.div_div_eq_div_mul, Nat.div_add_mod]

/-- The factor that a round of R131 selects is the Montgomery form of b or of 1. -/
theorem ite_toMont (N n b : Nat) (c : Bool) :
    (if c then b * radix n % N else 1 * radix n % N) = b ^ c.toNat * radix n % N := by
  cases c <;> simp

/-- The loop invariant of R136: with i bits to go, the accumulator is the Montgomery form of b to the bits read so
far, which are e / 2^i. -/
theorem MontConstants.expLoop_toMont {N Np n : Nat} (h : MontConstants N Np n) (hN : 0 < N) (b e i : Nat) :
    expLoop N Np n (1 * radix n % N) (b * radix n % N) e i (b ^ (e / 2 ^ i) * radix n % N) =
      b ^ e * radix n % N := by
  induction i with
  | zero => simp [expLoop]
  | succ i ih =>
    have hpow : b ^ (e / 2 ^ (i + 1)) * b ^ (e / 2 ^ (i + 1)) * b ^ (e.testBit i).toNat = b ^ (e / 2 ^ i) := by
      rw [← pow_add, ← pow_add, ← two_mul, ← div_two_pow_eq_two_mul_add_testBit]
    simp only [expLoop]
    rw [h.montMul_toMont hN, ite_toMont, h.montMul_toMont hN, hpow]
    exact ih

/-- Settles O35: the loop starts at no bits read, since e has at most 64 L. -/
theorem engineScheduleGivesThePower : Obligations.EngineScheduleGivesThePower := by
  unfold Obligations.EngineScheduleGivesThePower
  intro L N Np n b e hneg hN hlt he
  have hred : MontConstants N Np n := ⟨hlt, hneg.symm⟩
  have hloop := hred.expLoop_toMont hN b e (64 * L)
  rw [Nat.div_eq_of_lt he, pow_zero] at hloop
  simp only [modExpAlg]
  rw [hloop, hred.montMul_one_toMont hN, modExp_eq]

/-! ### The commands (R132 to R134) -/

section
variable {s : State} (hvalid : s.ctx.valid = true)
include hvalid

theorem exec_modexp (rd ra rb : BReg) :
    exec (.modexp rd ra rb) s = .next (finish .ok (setB s rd (valB s ra ^ valB s rb % val s.ctx.n))) := by
  rw [← modExp_eq]
  exact needContext_valid _ hvalid

/-- A message below N passes the range check, and RSAT goes on as MODEXP does. -/
theorem exec_rsat_eq_modexp (rd : BReg) {ra : BReg} (rb : BReg) (ha : valB s ra < val s.ctx.n) :
    exec (.rsat rd ra rb) s = exec (.modexp rd ra rb) s :=
  (needContext_rangeCheck_passes hvalid _ ha.not_ge).trans (needContext_valid _ hvalid).symm

variable (hinv : Inv s)
include hinv

theorem exec_modexp_writes (rd ra rb : BReg) :
    ∃ t, exec (.modexp rd ra rb) s = .next t ∧ WroteResidue s t rd (valB s ra ^ valB s rb % val s.ctx.n) := by
  have hexec := exec_modexp hvalid rd ra rb
  exact ⟨_, hexec, wroteResidue_of_exec hinv rfl rfl hexec (Nat.mod_lt _ (modulus_pos hinv hvalid))⟩

theorem exec_rsat_writes (rd : BReg) {ra : BReg} (rb : BReg) (ha : valB s ra < val s.ctx.n) :
    ∃ t, exec (.rsat rd ra rb) s = .next t ∧ WroteResidue s t rd (valB s ra ^ valB s rb % val s.ctx.n) := by
  rw [exec_rsat_eq_modexp hvalid rd rb ha]
  exact exec_modexp_writes hvalid hinv rd ra rb

end

/-- Settles O32: the written value is a residue modulo N. -/
theorem modexpComputesThePower : Obligations.ModexpComputesThePower := by
  unfold Obligations.ModexpComputesThePower
  intro s rd ra rb hinv hvalid
  obtain ⟨t, hexec, ht⟩ := exec_modexp_writes hvalid hinv rd ra rb
  have hlt : valB t rd < val s.ctx.n := ht.value.trans_lt (Nat.mod_lt _ (modulus_pos hinv hvalid))
  exact ⟨t, hexec, ht.value, hlt, ht.cf, ht.ord, ht.ctx, ht.completed, ht.frame⟩

/-- Settles O33: in range, RSAT is MODEXP. -/
theorem rsatComputesThePower : Obligations.RsatComputesThePower := by
  unfold Obligations.RsatComputesThePower
  intro s rd ra rb hinv hvalid ha
  obtain ⟨t, hexec, ht⟩ := exec_rsat_writes hvalid hinv rd rb ha
  exact ⟨t, hexec, ht.value, ht.cf, ht.ord, ht.ctx, ht.completed, ht.frame⟩

/-- Settles O34: each case is a power modulo N. -/
theorem modexpEdgeCases : Obligations.ModexpEdgeCases := by
  unfold Obligations.ModexpEdgeCases
  intro s rd ra rb hinv hvalid
  have hpos := modulus_pos hinv hvalid
  obtain ⟨t, hexec, ht⟩ := exec_modexp_writes hvalid hinv rd ra rb
  refine ⟨t, hexec, fun hN => ?_, fun hN he => ?_, fun hb he => ?_, fun he => ?_, fun hb => ?_⟩ <;> rw [ht.value]
  · rw [hN, Nat.mod_one]
  · rw [he, pow_zero, Nat.mod_eq_of_lt (by omega)]
  · have hdvd : val s.ctx.n ∣ valB s ra ^ valB s rb := dvd_pow (Nat.dvd_of_mod_eq_zero hb) (by omega)
    exact Nat.mod_eq_zero_of_dvd hdvd
  · rw [he, pow_one]
  · rw [hb, one_pow]

/-! ### The RSA round trip (R137) -/

/-- Fermat's theorem for every base, multiples of p included. -/
theorem pow_modEq_self_of_prime {p k : Nat} (hp : p.Prime) (hk : 0 < k) (hdvd : p - 1 ∣ k - 1) (m : Nat) :
    m ^ k ≡ m [MOD p] := by
  have hpow := Int.ModEq.pow_eq_pow hp hdvd hk one_pos m
  rw [pow_one] at hpow
  exact Int.natCast_modEq_iff.mp (by exact_mod_cast hpow)

/-- Exponents that are 1 modulo lcm(p-1, q-1) fix every residue modulo p q: they do so modulo p and modulo q. -/
theorem pow_modEq_self_of_primes {p q k : Nat} (hp : p.Prime) (hq : q.Prime) (hne : p ≠ q) (hk : 0 < k)
    (hone : k ≡ 1 [MOD Nat.lcm (p - 1) (q - 1)]) (m : Nat) : m ^ k ≡ m [MOD p * q] := by
  have hdvd : Nat.lcm (p - 1) (q - 1) ∣ k - 1 := (Nat.modEq_iff_dvd' hk).mp hone.symm
  refine (Nat.modEq_and_modEq_iff_modEq_mul ((Nat.coprime_primes hp hq).mpr hne)).mp ⟨?_, ?_⟩
  · exact pow_modEq_self_of_prime hp hk ((Nat.dvd_lcm_left _ _).trans hdvd) m
  · exact pow_modEq_self_of_prime hq hk ((Nat.dvd_lcm_right _ _).trans hdvd) m

/-- For an odd p the lcm is even, so a number that is 1 modulo it is odd and not 0. -/
theorem pos_of_modEq_one_lcm {p q k : Nat} (hodd : p % 2 = 1)
    (hone : k ≡ 1 [MOD Nat.lcm (p - 1) (q - 1)]) : 0 < k := by
  have heven : 2 ∣ Nat.lcm (p - 1) (q - 1) := (show 2 ∣ p - 1 by omega).trans (Nat.dvd_lcm_left _ _)
  have hkodd : k % 2 = 1 := hone.of_dvd heven
  omega

/-- Settles O36: the second RSAT reads what the first wrote, so the message is raised to e d modulo p q. -/
theorem rsaRoundTrip : Obligations.RsaRoundTrip := by
  unfold Obligations.RsaRoundTrip
  intro s r0 re rd r2 r3 p q hinv hvalid hp hq hne hpodd _ hN hone hlt hrd
  obtain ⟨t, hexec1, ht⟩ := exec_rsat_writes hvalid hinv r2 re hlt
  have hlt1 : valB t r2 < val t.ctx.n := by
    rw [ht.value, ht.ctx]
    exact Nat.mod_lt _ (modulus_pos hinv hvalid)
  obtain ⟨u, hexec2, hu⟩ := exec_rsat_writes (ht.ctx ▸ hvalid) ht.inv r3 rd hlt1
  refine ⟨t, u, hexec1, hexec2, ht.completed.1, hu.completed.1, ?_⟩
  have hself : valB s r0 ^ (valB s re * valB s rd) ≡ valB s r0 [MOD val s.ctx.n] := by
    rw [hN]
    exact pow_modEq_self_of_primes hp hq hne (pos_of_modEq_one_lcm hpodd hone) hone _
  rw [hu.value, ht.value, ht.ctx, ht.valB_of_ne hrd, ← Nat.pow_mod, ← pow_mul]
  exact Nat.mod_eq_of_modEq hself hlt

end Sys2Proof.Machine
end

section
/-! The system command ZEROIZE (R145): its completion and the state at reset (R35) agree on all that the host reads. -/

namespace Sys2Proof.Machine

theorem exec_zeroize (s : State) : exec .zeroize s = .next (finish .ok (clearAll s)) := rfl

@[simp] theorem valB_clearAll (s : State) (r : Fin 8) : valB (clearAll s) r = 0 := by
  rw [valB, getB_clearAll, val_zeroLimbs]

/-- What ZEROIZE clears are the places that reset clears (R145, R35), and its completion gives BUSY and ERR their
values at reset. -/
theorem sameArchitecture_resetOf_finish_clearAll (s : State) :
    SameArchitecture (State.resetOf s.nlimbs) (finish .ok (clearAll s)) := by
  have hregs : SameRegisters (State.resetOf s.nlimbs) (finish .ok (clearAll s)) := by
    simp [SameRegisters]
  have hbusy : (finish .ok (clearAll s)).busy = (State.resetOf s.nlimbs).busy := by simp
  have herr : (finish .ok (clearAll s)).err = (State.resetOf s.nlimbs).err := by simp
  exact ⟨hregs, hbusy, herr⟩

/-- Settles O37: the completion leaves the state as reset does; its frame is that of every command. -/
theorem zeroizeClearsEverything : Obligations.ZeroizeClearsEverything := by
  unfold Obligations.ZeroizeClearsEverything
  intro s
  have hw : ∀ r, getW (finish .ok (clearAll s)) r = 0 := fun r => by rw [getW_finish, getW_clearAll]
  have hb : ∀ r, valB (finish .ok (clearAll s)) r = 0 := fun r => by rw [valB_finish, valB_clearAll]
  exact ⟨_, exec_zeroize s, sameArchitecture_resetOf_finish_clearAll s, hw, hb, exec_frame (exec_zeroize s)⟩

end Sys2Proof.Machine
end

section
/-! Errors (R152 to R161): an error writes nothing but ERR and BUSY, and the code that each command ends with is that of
two checks in a fixed order. -/

namespace Sys2Proof.Machine

/-! ### Errors write nothing (R156) -/

/-- Settles O38: of the two ways a completion ends, the one with an error writes only ERR and BUSY. -/
theorem errorsChangeNothingElse : Obligations.ErrorsChangeNothingElse := by
  unfold Obligations.ErrorsChangeNothingElse
  intro i s t h herr
  obtain ⟨k, -, -, rfl⟩ | ⟨u, -, rfl⟩ := exec_ends h
  · rfl
  · exact absurd (finish_err .ok u) herr

/-! ### The code of each command (R155, R161) -/

/-- The code of a command's check on operand values: SETMOD's on the parity of the modulus (R113), the range checks of
R117, R118 and R133; the other commands have none. -/
def operandErr : Instr → State → ErrKind
  | .setmod ra, s => if valB s ra % 2 = 0 then .nonInvertible else .ok
  | .montmul _ ra rb, s => if val s.ctx.n ≤ valB s ra ∨ val s.ctx.n ≤ valB s rb then .valueOutOfRange else .ok
  | .frommont _ ra, s | .rsat _ ra _, s => if val s.ctx.n ≤ valB s ra then .valueOutOfRange else .ok
  | .mulw .., _ | .adcw .., _ | .sbbw .., _ | .add .., _ | .sub .., _ | .cmp .., _ | .mulf .., _ | .shl .., _
  | .shr .., _ | .tomont .., _ | .modexp .., _ | .zeroize, _ => .ok

/-- The code that a command ends with: the context check comes before the check on operand values (R155). -/
def errOf (i : Instr) (s : State) : ErrKind :=
  if needsContext i && !s.ctx.valid then .invalidOperand else operandErr i s

theorem needContext_finishes {i : Instr} {s : State} {m : Res} (hi : needsContext i = true)
    (hm : ∃ u, m = .next (finish (operandErr i s) u)) : ∃ u, needContext s m = .next (finish (errOf i s) u) := by
  cases hvalid : s.ctx.valid with
  | true => simpa [needContext_valid m hvalid, errOf, hvalid] using hm
  | false => exact ⟨s, by simp [needContext_invalid m hvalid, errOf, hvalid, hi]⟩

/-- A check on operand values, in front of a success. -/
theorem check_finishes (k : ErrKind) (s u : State) (p : Prop) [Decidable p] :
    ∃ u', (if p then raise k s else succeed u) = .next (finish (if p then k else .ok) u') := by
  split
  · exact ⟨s, rfl⟩
  · exact ⟨u, rfl⟩

/-- Every command completes, with the code of `errOf` and BUSY = 0. -/
theorem exec_finishes (i : Instr) (s : State) : ∃ u, exec i s = .next (finish (errOf i s) u) := by
  cases i with
  | mulw | adcw | sbbw | add | sub | cmp | mulf | shl | shr | zeroize => exact ⟨_, rfl⟩
  | setmod => exact check_finishes .nonInvertible s _ _
  | tomont | modexp => exact needContext_finishes rfl ⟨_, rfl⟩
  | montmul | frommont | rsat => exact needContext_finishes rfl (check_finishes .valueOutOfRange s _ _)

theorem check_eq_iff {p : Prop} [Decidable p] {k k' : ErrKind} (hk' : k' ≠ .ok) :
    (if p then k else .ok) = k' ↔ p ∧ k = k' := by
  split
  · simp [*]
  · simp [*, hk'.symm]

theorem operandErr_eq_nonInvertible_iff (i : Instr) (s : State) :
    operandErr i s = .nonInvertible ↔ ∃ ra, i = .setmod ra ∧ valB s ra % 2 = 0 := by
  cases i <;> simp [operandErr, check_eq_iff]

theorem operandErr_eq_valueOutOfRange_iff (i : Instr) (s : State) :
    operandErr i s = .valueOutOfRange ↔
      (∃ rd ra rb, i = .montmul rd ra rb ∧ (val s.ctx.n ≤ valB s ra ∨ val s.ctx.n ≤ valB s rb)) ∨
      (∃ rd ra, i = .frommont rd ra ∧ val s.ctx.n ≤ valB s ra) ∨
      (∃ rd ra rb, i = .rsat rd ra rb ∧ val s.ctx.n ≤ valB s ra) := by
  cases i <;> simp [operandErr, check_eq_iff, or_iff_not_imp_left]

/-- InvalidOperand comes from the context check alone, and EntropyExhausted from nothing (R153). -/
theorem operandErr_ne (i : Instr) (s : State) :
    operandErr i s ≠ .invalidOperand ∧ operandErr i s ≠ .entropyExhausted := by
  cases i <;> simp [operandErr, check_eq_iff]

theorem errOf_eq_invalidOperand_iff (i : Instr) (s : State) :
    errOf i s = .invalidOperand ↔ needsContext i = true ∧ s.ctx.valid = false := by
  obtain ⟨hne, -⟩ := operandErr_ne i s
  simp [errOf, hne]

/-- Any other error comes from the check on operand values, which a missing context forestalls (R155). -/
theorem errOf_eq_iff {k : ErrKind} (hk : k ≠ .invalidOperand) (i : Instr) (s : State) :
    errOf i s = k ↔ (needsContext i = true → s.ctx.valid = true) ∧ operandErr i s = k := by
  unfold errOf
  split
  · next hmissing =>
    obtain ⟨hneeds, hinvalid⟩ : needsContext i = true ∧ s.ctx.valid = false := by simpa using hmissing
    simp [hneeds, hinvalid, hk.symm]
  · next hpresent =>
    have hvalid : needsContext i = true → s.ctx.valid = true := by simpa using hpresent
    exact (and_iff_right hvalid).symm

theorem needsContext_of_valueOutOfRange {i : Instr} {s : State} (h : operandErr i s = .valueOutOfRange) :
    needsContext i = true := by
  obtain ⟨_, _, _, rfl, -⟩ | ⟨_, _, rfl, -⟩ | ⟨_, _, _, rfl, -⟩ := (operandErr_eq_valueOutOfRange_iff i s).mp h
  · rfl
  · rfl
  · rfl

theorem errOf_eq_valueOutOfRange_iff (i : Instr) (s : State) :
    errOf i s = .valueOutOfRange ↔ s.ctx.valid = true ∧ operandErr i s = .valueOutOfRange := by
  rw [errOf_eq_iff (by decide)]
  exact and_congr_left fun h => by simp [needsContext_of_valueOutOfRange h]

theorem needsContext_of_nonInvertible {i : Instr} {s : State} (h : operandErr i s = .nonInvertible) :
    needsContext i = false := by
  obtain ⟨_, rfl, -⟩ := (operandErr_eq_nonInvertible_iff i s).mp h
  rfl

theorem errOf_eq_nonInvertible_iff (i : Instr) (s : State) :
    errOf i s = .nonInvertible ↔ operandErr i s = .nonInvertible := by
  rw [errOf_eq_iff (by decide)]
  exact and_iff_right_of_imp fun h => by simp [needsContext_of_nonInvertible h]

theorem errOf_ne_entropyExhausted (i : Instr) (s : State) : errOf i s ≠ .entropyExhausted := by
  obtain ⟨-, hne⟩ := operandErr_ne i s
  rw [Ne, errOf_eq_iff (by decide)]
  exact fun ⟨_, h⟩ => hne h

/-- Settles O39: the code of a completion is `errOf`, the context check and then the check on operand values. -/
theorem whichCommandRaisesWhat : Obligations.WhichCommandRaisesWhat := by
  unfold Obligations.WhichCommandRaisesWhat
  intro i s t h
  obtain ⟨u, hexec⟩ := exec_finishes i s
  obtain rfl : t = finish (errOf i s) u := by simpa using h.symm.trans hexec
  rw [finish_err, ← operandErr_eq_nonInvertible_iff, ← operandErr_eq_valueOutOfRange_iff]
  exact ⟨errOf_eq_invalidOperand_iff i s, errOf_eq_nonInvertible_iff i s, errOf_eq_valueOutOfRange_iff i s,
    errOf_ne_entropyExhausted i s, finish_busy _ u⟩

end Sys2Proof.Machine
end

section
/-! From issue to completion (R150, R166, R190): every step has an outcome, the steps before the completion leave what
the host can read, and the completion evaluates the command as if at its issue. -/

namespace Sys2Proof.Machine

/-! ### Every step has an outcome (R150, R166) -/

theorem completion_of_ok {s : State} {i : Instr} (h : decode s.cmdr = .ok i) : completion s = exec i s := by
  rw [completion, h]

/-- Settles O46: the completing step is the completion, which evaluates the decoded command. -/
theorem stepRunsTheDecodedCommand : Obligations.StepRunsTheDecodedCommand := by
  unfold Obligations.StepRunsTheDecodedCommand
  exact fun s i hbusy hwork hdecode => (step_of_done hbusy hwork).trans (completion_of_ok hdecode)

/-- A completion always comes to its end, with BUSY = 0. -/
theorem completion_finishes (s : State) : ∃ k u, completion s = .next (finish k u) := by
  cases hdecode : decode s.cmdr with
  | ok i =>
    obtain ⟨u, hexec⟩ := exec_finishes i s
    exact ⟨_, u, (completion_of_ok hdecode).trans hexec⟩
  | error e => exact ⟨_, s, completion_of_error hdecode⟩

/-- Until the latency is used up the turn is the port's, whatever comes from outside. -/
theorem exists_busyTurn {s : State} (hwork : s.work ≠ 0) : ∃ t, busyTurn s = some t := by
  unfold busyTurn
  rw [if_neg hwork]
  split
  · exact ⟨_, rfl⟩
  · exact ⟨_, rfl⟩
  · split
    · exact ⟨_, rfl⟩
    · split
      · exact ⟨_, rfl⟩
      · exact ⟨_, rfl⟩

/-- Settles O45: the idle port has a turn, the busy port has one until the latency is used up, and then the completion
has an outcome. -/
theorem everyStateHasASuccessor : Obligations.EveryStateHasASuccessor := by
  unfold Obligations.EveryStateHasASuccessor
  intro s
  cases hbusy : s.busy with
  | false => exact ⟨_, step_of_idle hbusy⟩
  | true =>
    by_cases hwork : s.work = 0
    · obtain ⟨_, _, hdone⟩ := completion_finishes s
      exact ⟨_, (step_of_done hbusy hwork).trans hdone⟩
    · obtain ⟨t, hturn⟩ := exists_busyTurn hwork
      exact ⟨t, step_of_busyTurn hbusy hturn⟩

/-! ### A step before the completion (R49, R150) -/

theorem SameRegisters.trans {s t u : State} (h : SameRegisters s t) (h' : SameRegisters t u) : SameRegisters s u := by
  obtain ⟨hL, hw, hb, hcf, hord, hctx⟩ := h
  obtain ⟨hL', hw', hb', hcf', hord', hctx'⟩ := h'
  exact ⟨hL'.trans hL, hw'.trans hw, hb'.trans hb, hcf'.trans hcf, hord'.trans hord, hctx'.trans hctx⟩

theorem sameArchitecture_refl (s : State) : SameArchitecture s s := ⟨sameRegisters_refl s, rfl, rfl⟩

theorem SameArchitecture.trans {s t u : State} (h : SameArchitecture s t) (h' : SameArchitecture t u) :
    SameArchitecture s u := by
  obtain ⟨hregs, hbusy, herr⟩ := h
  obtain ⟨hregs', hbusy', herr'⟩ := h'
  exact ⟨hregs.trans hregs', hbusy'.trans hbusy, herr'.trans herr⟩

/-- What a step before the completion leaves, where no reset comes: one unit of the latency is used up and events are
taken from the host's list, and nothing that the host can read changes, nor CMDR. -/
structure Waited (s t : State) : Prop where
  same : SameArchitecture s t
  cmdr : t.cmdr = s.cmdr
  work : t.work = s.work - 1
  host : t.host ⊆ s.host

theorem eq_read_status_of_answered {tx : Txn} (h : answeredWhileBusy tx = true) : tx = .read 0x0001 := eq_of_beq h

theorem busyTurn_waits {s t : State} (hreset : s.host.head? ≠ some .reset) (h : busyTurn s = some t) : Waited s t := by
  obtain ⟨-, rfl | ⟨es, hhost, -⟩ | ⟨tx, es, hhost, -, hstatus, rfl⟩ | ⟨tx, es, hhost, -, -, rfl⟩⟩ := busyTurn_cases h
  · exact ⟨sameArchitecture_refl s, rfl, rfl, List.Subset.refl _⟩
  · simp [hhost] at hreset
  · obtain rfl := eq_read_status_of_answered hstatus
    exact ⟨sameArchitecture_refl s, rfl, rfl, hhost ▸ List.subset_cons_self _ es⟩
  · exact ⟨sameArchitecture_refl s, rfl, rfl, hhost ▸ List.subset_cons_self _ es⟩

theorem step_waits {s : State} (hbusy : s.busy = true) (hwork : s.work ≠ 0) (hreset : s.host.head? ≠ some .reset) :
    ∃ t, step s = .next t ∧ Waited s t := by
  obtain ⟨t, hturn⟩ := exists_busyTurn hwork
  exact ⟨t, step_of_busyTurn hbusy hturn, busyTurn_waits hreset hturn⟩

/-- Settles O49: a turn of the port before the completion only takes an event and uses up latency. -/
theorem nothingChangesWhileBusy : Obligations.NothingChangesWhileBusy := by
  unfold Obligations.NothingChangesWhileBusy
  intro s hbusy hwork hreset
  obtain ⟨t, hstep, hwait⟩ := step_waits hbusy hwork hreset
  exact ⟨t, hstep, hwait.same, hwait.cmdr⟩

/-! ### The run to the completion (R150, R190) -/

theorem NoReset.head_ne {es : List HostEvent} (h : NoReset es) : es.head? ≠ some .reset :=
  fun hhead => h (List.mem_of_head? hhead)

/-- The run from a busy state ends in the completion of a state that the host cannot tell from the first one. -/
theorem run_to_completion {s : State} (hbusy : s.busy = true) (hnoreset : NoReset s.host) :
    ∃ t u, SameArchitecture s t ∧ t.cmdr = s.cmdr ∧ completion t = .next u ∧
      Host.Core.run Sys2Proof.core (s.work + 1) s = .next u := by
  induction hwork : s.work generalizing s with
  | zero =>
    obtain ⟨k, u, hdone⟩ := completion_finishes s
    exact ⟨s, _, sameArchitecture_refl s, rfl, hdone, run_succ 0 ((step_of_done hbusy hwork).trans hdone)⟩
  | succ n ih =>
    obtain ⟨s', hstep, hwait⟩ := step_waits hbusy (by omega) hnoreset.head_ne
    obtain ⟨-, hbusy', -⟩ := hwait.same
    have hnoreset' : NoReset s'.host := fun hmem => hnoreset (hwait.host hmem)
    have hwork' : s'.work = n := by rw [hwait.work, hwork, Nat.add_sub_cancel]
    obtain ⟨t, u, hsame, hcmdr, hdone, hrun⟩ := ih (hbusy'.trans hbusy) hnoreset' hwork'
    exact ⟨t, u, hwait.same.trans hsame, hcmdr.trans hwait.cmdr, hdone, (run_succ _ hstep).trans hrun⟩

/-- Settles O53: the run reaches the completion, and every completion ends with BUSY = 0. -/
theorem completionAlwaysComes : Obligations.CompletionAlwaysComes := by
  unfold Obligations.CompletionAlwaysComes
  intro s hbusy hnoreset
  obtain ⟨t, u, -, -, hdone, hrun⟩ := run_to_completion hbusy hnoreset
  obtain ⟨k, u', hfinish⟩ := completion_finishes t
  obtain rfl : u = finish k u' := by simpa using hdone.symm.trans hfinish
  exact ⟨_, hrun, finish_busy k u'⟩

/-! ### A command reads registers, flags and context only (R90, R150) -/

/-- The registers, flags and context of `s`, with the port, the latch and the engine of `p`. -/
def onto (s p : State) : State :=
  { p with nlimbs := s.nlimbs, w := s.w, b := s.b, cf := s.cf, ord := s.ord, ctx := s.ctx }

theorem SameRegisters.eq_onto {s t : State} (h : SameRegisters s t) : t = onto s t := by
  obtain ⟨hL, hw, hb, hcf, hord, hctx⟩ := h
  simp only [onto, ← hL, ← hw, ← hb, ← hcf, ← hord, ← hctx]

/-- Both outcomes are completions, and they leave the same to the host. -/
def Agree (m m' : Res) : Prop := ∃ u t, m = .next u ∧ m' = .next t ∧ SameArchitecture u t

theorem agree_finish (k : ErrKind) (u p : State) : Agree (.next (finish k u)) (.next (finish k (onto u p))) :=
  ⟨_, _, rfl, rfl, ⟨rfl, rfl, rfl, rfl, rfl, rfl⟩, rfl, rfl⟩

theorem agree_ite {p : Prop} [Decidable p] {m₁ m₁' m₂ m₂' : Res} (h₁ : Agree m₁ m₁') (h₂ : Agree m₂ m₂') :
    Agree (if p then m₁ else m₂) (if p then m₁' else m₂') := by
  split
  · exact h₁
  · exact h₂

theorem agree_needContext {s p : State} {m m' : Res} (h : Agree m m') :
    Agree (needContext s m) (needContext (onto s p) m') :=
  agree_ite h (agree_finish .invalidOperand s p)

/-- A check on operand values, in front of a success. -/
theorem agree_check {c : Prop} [Decidable c] (k : ErrKind) (s u p : State) :
    Agree (if c then raise k s else succeed u) (if c then raise k (onto s p) else succeed (onto u p)) :=
  agree_ite (agree_finish k s p) (agree_finish .ok u p)

theorem exec_onto (i : Instr) (s p : State) : Agree (exec i s) (exec i (onto s p)) := by
  cases i with
  | mulw | adcw | sbbw | add | sub | cmp | mulf | shl | shr | zeroize => exact agree_finish .ok _ p
  | setmod => exact agree_check .nonInvertible s _ p
  | tomont | modexp => exact agree_needContext (agree_finish .ok _ p)
  | montmul | frommont | rsat => exact agree_needContext (agree_check .valueOutOfRange s _ p)

theorem exec_agree {s t : State} (i : Instr) (h : SameRegisters s t) : Agree (exec i s) (exec i t) := by
  rw [h.eq_onto]
  exact exec_onto i s t

/-- Settles O54: the write of CMD issues, the run leaves the registers until the completion, and the completion
evaluates the command, which reads nothing else. -/
theorem commandsAreAtomic : Obligations.CommandsAreAtomic := by
  unfold Obligations.CommandsAreAtomic
  intro s v es hbusy hheld hhost hnoreset
  obtain ⟨s', hstep, hcmdr, hbusy', hissue, -, -, hhost', -⟩ := writeOfCmdIssues s v es hbusy hheld hhost
  obtain ⟨t, u, ⟨hwait, -⟩, hcmdr', hdone, hrun⟩ := run_to_completion hbusy' (hhost' ▸ hnoreset)
  have hregs : SameRegisters s t := hissue.trans hwait
  refine ⟨_, u, (run_succ _ hstep).trans hrun, fun i hdecode => ?_, fun hillegal => ?_⟩
  · obtain ⟨u₀, u', hexec, hexec', hsame⟩ := exec_agree i hregs
    rw [← hcmdr, ← hcmdr'] at hdecode
    obtain rfl : u = u' := by simpa using (hdone.symm.trans (completion_of_ok hdecode)).trans hexec'
    exact ⟨u₀, hexec, hsame⟩
  · obtain ⟨i, hdecode, -⟩ | ⟨_, -, rfl⟩ := completion_cases hdone
    · rw [hcmdr', hcmdr] at hdecode
      exact absurd hdecode (hillegal i)
    · exact ⟨hregs, rfl, rfl⟩

end Sys2Proof.Machine
end

section
/-! Reset and the idle block (R176, R178): one step takes the reset event, busy or idle, and without an event from
outside the idle block stays as it is. -/

namespace Sys2Proof.Machine

/-! ### The step that takes the reset event (R176) -/

section
variable {s : State} {es : List HostEvent} (hhost : s.host = .reset :: es)
include hhost

/-- Before the completion reset comes first, whether or not a transaction is held. -/
theorem busyTurn_reset (hwork : s.work ≠ 0) : busyTurn s = some (resetBlock { s with host := es }) := by
  rw [busyTurn, if_neg hwork, hhost]

theorem step_busy_reset (hbusy : s.busy = true) (hwork : s.work ≠ 0) :
    step s = .next (resetBlock { s with host := es }) :=
  step_of_busyTurn hbusy (busyTurn_reset hhost hwork)

theorem step_idle_reset (hbusy : s.busy = false) (hheld : s.held = none) :
    step s = .next (resetBlock { s with host := es }) := by
  rw [step_of_idle hbusy, idleTurn, hheld, hhost]

end

/-- Reset gives the registers, flags, context, BUSY and ERR the values of R35, whatever ran before. -/
theorem sameArchitecture_resetOf_resetBlock (s : State) :
    SameArchitecture (State.resetOf s.nlimbs) (resetBlock s) := by
  have hregs : SameRegisters (State.resetOf s.nlimbs) (resetBlock s) := by
    simp [SameRegisters]
  have hbusy : (resetBlock s).busy = (State.resetOf s.nlimbs).busy := by simp
  have herr : (resetBlock s).err = (State.resetOf s.nlimbs).err := by simp
  exact ⟨hregs, hbusy, herr⟩

/-- Settles O51: the turn that takes the reset event, busy or idle, is the reset of the block, which clears CMDR and the
held transaction too and answers nothing. -/
theorem resetClearsTheBlock : Obligations.ResetClearsTheBlock := by
  unfold Obligations.ResetClearsTheBlock
  intro s es hhost hwhen
  have hstep : step s = .next (resetBlock { s with host := es }) := by
    obtain ⟨hbusy, hwork⟩ | ⟨hbusy, hheld⟩ := hwhen
    · exact step_busy_reset hhost hbusy hwork
    · exact step_idle_reset hhost hbusy hheld
  exact ⟨_, hstep, sameArchitecture_resetOf_resetBlock { s with host := es }, resetBlock_cmdr _, resetBlock_held _,
    resetBlock_host _, resetBlock_answers _⟩

/-! ### The idle block (R178) -/

theorem idleTurn_eq_self {s : State} (hheld : s.held = none) (hhost : s.host = []) : idleTurn s = s := by
  rw [idleTurn, hheld, hhost]

/-- Settles O52: with BUSY = 0 the step is the port's turn, and with nothing held and no event that turn is idle. -/
theorem idleBlockWaits : Obligations.IdleBlockWaits := by
  unfold Obligations.IdleBlockWaits
  intro s hbusy hheld hhost
  rw [step_of_idle hbusy, idleTurn_eq_self hheld hhost]

end Sys2Proof.Machine
end
